-- ==== Sys2Proof/Word.lean ====
section
/-! DEFINITION. The widths RC-CORE's values have (00_scope.md R6, R8). Nothing here computes. -/

namespace Sys2Proof

/-- A byte of either stream, and the width of ENC.cache (R6 CACHE_W). -/
abbrev Byte := BitVec 8

/-- ENC.range, DEC.range and DEC.code (R6 RANGE_W, CODE_W). -/
abbrev Word := BitVec 32

/-- ENC.low: 32 bits and the carry in bit 32 (R6 LOW_W, R22). -/
abbrev Low := BitVec 33

/-- A probability cell's value, a `u11` (R29, R73). -/
abbrev Prob := BitVec 11

/-- A command word (R70). -/
abbrev CommandWord := BitVec 16

/-- A response word (R76). -/
abbrev ResponseWord := BitVec 16

end Sys2Proof
end

