-- ==== Sys2Proof/Syntax.lean ====
section
/-! DEFINITION. RC-CORE's commands: one constructor per row of spec/opcode_table.json (30_encoding.md R71). -/

namespace Sys2Proof

/-- The ten commands. `b` is the bit to encode (R72), `p` the caller's cell value (R73). -/
inductive Instr where
  /-- ENC.INIT (R136) -/
  | encInit
  /-- ENC.DIRECT b (R137) -/
  | encDirect (b : Bool)
  /-- ENC.BIT b, p (R138) -/
  | encBit (b : Bool) (p : Prob)
  /-- ENC.FLUSH (R139) -/
  | encFlush
  /-- P.INC p (R105) -/
  | pInc (p : Prob)
  /-- P.DEC p (R106) -/
  | pDec (p : Prob)
  /-- DEC.INIT (R181) -/
  | decInit
  /-- DEC.DIRECT (R182) -/
  | decDirect
  /-- DEC.BIT p (R183) -/
  | decBit (p : Prob)
  /-- DEC.ATEND (R184) -/
  | decAtend
  deriving DecidableEq, Repr

end Sys2Proof
end

