-- ==== Sys2Proof/WellFormed.lean ====
section
/-! DEFINITION. Which terms of Instr stand for a legal command word (30_encoding.md R71, R74 d). -/

namespace Sys2Proof

/-- A cell operand is legal when it is not 0 (R73: "The value 0 is not a legal cell value"). -/
def cellLegal (p : Prob) : Bool := p != 0#11

/-- Each command that uses P needs a legal cell value (R71 "yes (1..2047)"); the others have no condition. -/
def Instr.wf : Instr → Bool
  | .encInit => true
  | .encDirect _ => true
  | .encBit _ p => cellLegal p
  | .encFlush => true
  | .pInc p => cellLegal p
  | .pDec p => cellLegal p
  | .decInit => true
  | .decDirect => true
  | .decBit p => cellLegal p
  | .decAtend => true

end Sys2Proof
end

