-- ==== Sys2Proof/Decode.lean ====
section
/-! DEFINITION. The command word: its fields, the decoder, the encoder and the match and mask table
(30_encoding.md R70 to R79). -/

namespace Sys2Proof

/-- Why a word is illegal: the four cases of R74. -/
inductive Reject where
  /-- (a) OP is a reserved value (R75). -/
  | reservedOp
  /-- (b) B = 1 where B must be 0. -/
  | bNotZero
  /-- (c) P ≠ 0 where P must be 0. -/
  | pNotZero
  /-- (d) P = 0 where P is used. -/
  | pZero
  deriving DecidableEq, Repr

/-- OP, bits 3:0 (R70). -/
def opField (w : CommandWord) : BitVec 4 := w.extractLsb' 0 4

/-- B, bit 4 (R70, R72). -/
def bField (w : CommandWord) : Bool := w.getLsbD 4

/-- P, bits 15:5 (R70, R73). -/
def pField (w : CommandWord) : Prob := w.extractLsb' 5 11

/-- A row that says B and P "must be 0" (R71). -/
def decodePlain (w : CommandWord) (i : Instr) : Except Reject Instr :=
  if bField w then .error .bNotZero
  else if pField w ≠ 0#11 then .error .pNotZero
  else .ok i

/-- A row that uses B and says P "must be 0" (R71). -/
def decodeWithBit (w : CommandWord) (f : Bool → Instr) : Except Reject Instr :=
  if pField w ≠ 0#11 then .error .pNotZero
  else .ok (f (bField w))

/-- A row that uses P and says B "must be 0" (R71). -/
def decodeWithCell (w : CommandWord) (f : Prob → Instr) : Except Reject Instr :=
  if bField w then .error .bNotZero
  else if pField w = 0#11 then .error .pZero
  else .ok (f (pField w))

/-- A row that uses B and P (R71). -/
def decodeWithBitAndCell (w : CommandWord) (f : Bool → Prob → Instr) : Except Reject Instr :=
  if pField w = 0#11 then .error .pZero
  else .ok (f (bField w) (pField w))

/-- The decoder: OP selects the command (R71), the row's columns check B and P (R74), every other OP is reserved (R75). -/
def decode (w : CommandWord) : Except Reject Instr :=
  match (opField w).toNat with
  | 0x0 => decodePlain w .encInit
  | 0x1 => decodeWithBit w .encDirect
  | 0x2 => decodeWithBitAndCell w .encBit
  | 0x3 => decodePlain w .encFlush
  | 0x4 => decodeWithCell w .pInc
  | 0x5 => decodeWithCell w .pDec
  | 0x8 => decodePlain w .decInit
  | 0x9 => decodePlain w .decDirect
  | 0xA => decodeWithCell w .decBit
  | 0xB => decodePlain w .decAtend
  | _ => .error .reservedOp

/-- R79: "To encode a command: `w = (p << 5) | (b << 4) | OP`." -/
def assemble (op : Nat) (b : Bool) (p : Prob) : CommandWord :=
  BitVec.ofNat 16 (p.toNat * 32 + b.toNat * 16 + op)

/-- The OP value of each command (R71). -/
def opCode : Instr → Nat
  | .encInit => 0x0
  | .encDirect _ => 0x1
  | .encBit _ _ => 0x2
  | .encFlush => 0x3
  | .pInc _ => 0x4
  | .pDec _ => 0x5
  | .decInit => 0x8
  | .decDirect => 0x9
  | .decBit _ => 0xA
  | .decAtend => 0xB

/-- The B operand of each command; 0 where the row says so (R71). -/
def bOperand : Instr → Bool
  | .encDirect b => b
  | .encBit b _ => b
  | .encInit | .encFlush | .pInc _ | .pDec _ | .decInit | .decDirect | .decBit _ | .decAtend => false

/-- The P operand of each command; 0 where the row says so (R71). -/
def pOperand : Instr → Prob
  | .encBit _ p => p
  | .pInc p => p
  | .pDec p => p
  | .decBit p => p
  | .encInit | .encDirect _ | .encFlush | .decInit | .decDirect | .decAtend => 0#11

/-- The encoder: the word of an instruction (R79, R80). -/
def encode (i : Instr) : CommandWord := assemble (opCode i) (bOperand i) (pOperand i)

/-- The mnemonic of each command, as spec/opcode_table.json spells it. -/
def mnemonic : Instr → String
  | .encInit => "ENC.INIT"
  | .encDirect _ => "ENC.DIRECT"
  | .encBit _ _ => "ENC.BIT"
  | .encFlush => "ENC.FLUSH"
  | .pInc _ => "P.INC"
  | .pDec _ => "P.DEC"
  | .decInit => "DEC.INIT"
  | .decDirect => "DEC.DIRECT"
  | .decBit _ => "DEC.BIT"
  | .decAtend => "DEC.ATEND"

/-- One row of R79. -/
structure OpcodeRow where
  mnemonic : String
  pattern : CommandWord
  mask : CommandWord
  needsCell : Bool
  deriving DecidableEq, Repr

/-- The table of R79, row by row. The decoder does not use it; a statement holds the decoder against it. -/
def opcodeRows : List OpcodeRow :=
  [ { mnemonic := "ENC.INIT", pattern := 0x0000#16, mask := 0xFFFF#16, needsCell := false },
    { mnemonic := "ENC.DIRECT", pattern := 0x0001#16, mask := 0xFFEF#16, needsCell := false },
    { mnemonic := "ENC.BIT", pattern := 0x0002#16, mask := 0x000F#16, needsCell := true },
    { mnemonic := "ENC.FLUSH", pattern := 0x0003#16, mask := 0xFFFF#16, needsCell := false },
    { mnemonic := "P.INC", pattern := 0x0004#16, mask := 0x001F#16, needsCell := true },
    { mnemonic := "P.DEC", pattern := 0x0005#16, mask := 0x001F#16, needsCell := true },
    { mnemonic := "DEC.INIT", pattern := 0x0008#16, mask := 0xFFFF#16, needsCell := false },
    { mnemonic := "DEC.DIRECT", pattern := 0x0009#16, mask := 0xFFFF#16, needsCell := false },
    { mnemonic := "DEC.BIT", pattern := 0x000A#16, mask := 0x001F#16, needsCell := true },
    { mnemonic := "DEC.ATEND", pattern := 0x000B#16, mask := 0xFFFF#16, needsCell := false } ]

/-- R79: a word selects a row when `(w & mask) = match`, and P ≠ 0 where the row needs it. -/
def rowMatches (r : OpcodeRow) (w : CommandWord) : Bool :=
  (w &&& r.mask == r.pattern) && (!r.needsCell || pField w != 0#11)

/-- The host's reading of a table word: the command word is one 16-bit value and has no byte layout (R55, R70; log 8). -/
def decodeTableWord (nbits w : Nat) : Option Instr :=
  if w % 2 ^ nbits < 2 ^ 16 then (decode (BitVec.ofNat 16 (w % 2 ^ nbits))).toOption else none

end Sys2Proof
end

