-- ==== Sys2Proof/Config.lean ====
section
/-! DEFINITION. What an implementation of RC-CORE fixes (R6, R7) and the values the spec leaves open (R37). -/

namespace Sys2Proof

/-- The one parameter of RC-CORE (R7): W_CS, the width of ENC.cacheSize in bits. -/
structure Config where
  wCS : Nat
  deriving DecidableEq, Repr

namespace Config

/-- The parameter's default (R6: "named parameter, default 64"). -/
def standard : Config := { wCS := 64 }

/-- R7: W_CS "must be at least 2". -/
def wf (c : Config) : Bool := decide (2 ≤ c.wCS)

/-- The largest value ENC.cacheSize holds, 2^W_CS - 1 (R134 b). -/
def maxCacheSize (c : Config) : Nat := 2 ^ c.wCS - 1

/-! The fixed parameters of R6. -/

/-- TOTAL = 2^PROB_BITS. -/
abbrev total : Nat := 2048

/-- PROB_BITS: Bound shifts the range by it. -/
abbrev probBits : Nat := 11

/-- MOVE_BITS: the shift of the cell updates. -/
abbrev moveBits : Nat := 5

/-- TOP = 2^24, the normalization threshold. -/
abbrev top : Word := 0x01000000#32

/-- RANGE_INIT. -/
abbrev rangeInit : Word := 0xFFFFFFFF#32

/-- PROB_INIT, the canonical first value of a caller's cell (R107). -/
abbrev probInit : Prob := 1024#11

/-- FLUSH_SHIFTS. -/
abbrev flushShifts : Nat := 5

/-! R37: "When a unit's phase becomes FAILED, its other registers are unspecified: a model may give them any value."
Each such register takes one of these constants, which have no body, applied to its unit's counter in State (log 4). -/

opaque freeEncRange : Nat → Word
opaque freeEncLow : Nat → Low
opaque freeEncCache : Nat → Byte
opaque freeEncCacheSize : Nat → Nat
opaque freeDecRange : Nat → Word
opaque freeDecCode : Nat → Word

end Config

end Sys2Proof
end

