-- ==== Sys2Proof/Machine/State.lean ====
section
/-! DEFINITION. RC-CORE's state (10_state.md R20 to R39), its two byte streams and its command port
(20_memory.md R50 to R65), and the reasons a step can stop. -/

namespace Sys2Proof.Machine

/-- ENC's lifecycle (R25). -/
inductive EncPhase where
  | ready
  | flushed
  | failed
  deriving DecidableEq, Repr

/-- DEC's lifecycle (R28). -/
inductive DecPhase where
  | uninit
  | ready
  | failed
  deriving DecidableEq, Repr

/-- The encoder unit (R21 to R25). -/
structure EncUnit where
  /-- ENC.range (R21) -/
  range : Word
  /-- ENC.low, the accumulator; bit 32 is the carry (R22) -/
  low : Low
  /-- ENC.cache, the byte held back (R23) -/
  cache : Byte
  /-- ENC.cacheSize, a W_CS-bit count, so below 2^W_CS (R24; log 3) -/
  cacheSize : Nat
  /-- ENC.phase (R25) -/
  phase : EncPhase
  deriving DecidableEq, Repr

/-- The decoder unit (R26 to R28). -/
structure DecUnit where
  /-- DEC.range (R26) -/
  range : Word
  /-- DEC.code (R27) -/
  code : Word
  /-- DEC.phase (R28) -/
  phase : DecPhase
  deriving DecidableEq, Repr

/-- What the byte sink answers to a SinkWrite or a SinkFlush (R51, R52). -/
inductive SinkAnswer where
  | ok
  | err
  deriving DecidableEq, Repr

/-- What the byte source answers to a SourceRead (R53). -/
inductive SourceAnswer where
  | byte (v : Byte)
  | eod
  | err
  deriving DecidableEq, Repr

/-- The byte sink (R50 to R52): what it has accepted, and the answers it will give (log 1). -/
structure SinkPort where
  /-- the sink's stream so far, the first byte written first (R51, R59) -/
  written : List Byte
  /-- how many of these bytes an acknowledged SinkFlush has released (R52, R60) -/
  released : Nat
  /-- the host's coming answers, the next one first -/
  answers : List SinkAnswer
  deriving DecidableEq, Repr

/-- The byte source (R50, R53): its position, and the answers it will give (log 1). -/
structure SourcePort where
  /-- the source's position: how many bytes RC-CORE has taken (R53) -/
  taken : Nat
  /-- the host's coming answers, the next one first -/
  answers : List SourceAnswer
  deriving DecidableEq, Repr

/-- What the host may do between commands (R65): issue a command word, or assert reset (R270). -/
inductive HostMove where
  | command (w : CommandWord)
  | reset
  deriving DecidableEq, Repr

/-- RC-CORE and its interface. R38 lists the registers: "No other state exists". -/
structure State where
  /-- the parameter W_CS (R7; log 3) -/
  config : Config
  /-- the encoder unit (R20) -/
  enc : EncUnit
  /-- the decoder unit (R20) -/
  dec : DecUnit
  /-- the byte sink (R50) -/
  sink : SinkPort
  /-- the byte source (R50) -/
  source : SourcePort
  /-- the host's coming moves at the command port (R65; log 5) -/
  moves : List HostMove
  /-- the response words delivered so far, in order (R76, R279; log 7) -/
  responses : List ResponseWord
  /-- the model's own: which free values ENC takes next (R37; log 4) -/
  freeEncCount : Nat
  /-- the model's own: which free values DEC takes next (R37; log 4) -/
  freeDecCount : Nat
  deriving DecidableEq, Repr

/-- The outcome of a command (R77); STATUS 7 is "never produced". -/
inductive Status where
  | ok
  | errIllegal
  | errSeq
  | errIo
  | errEod
  | errMalformed
  | errInvariant
  deriving DecidableEq, Repr

/-- The fatal statuses, the only ones a rule raises (R237). -/
inductive Fatal where
  /-- a sink or source answered ERR (R233) -/
  | io
  /-- the source answered EOD (R234) -/
  | eod
  /-- DEC.INIT found a malformed header (R235) -/
  | malformed
  /-- ShiftLow's counter checks (R134, R236) -/
  | invariant
  deriving DecidableEq, Repr

/-- The two units that have a phase (R20). -/
inductive CoderUnit where
  | enc
  | dec
  deriving DecidableEq, Repr

/-- How a piece of a command's pseudocode ends (R11, R12): it goes on with a value, or `raise` ended the command.
Either way the state holds every effect so far. -/
inductive Flow (α : Type) where
  | go (a : α) (s : State)
  | raise (f : Fatal) (s : State)
  deriving DecidableEq, Repr

/-- The reasons a step stops with a fault: there is none, since every event of RC-CORE is a response (R230, R238; log 9). -/
inductive Fault where
  deriving DecidableEq, Repr

/-- The reasons a step is refused. -/
inductive Refusal where
  /-- An instruction without a meaning; no arm of exec answers it here. Safe: it would stop the machine. -/
  | notModelled (mnemonic : String)
  deriving DecidableEq, Repr

/-- Right after reset: the registers of R38; the streams and the port as log 6 names them; W_CS at its default (log 3). -/
def State.reset : State :=
  { config := Config.standard
    enc := { range := 0xFFFFFFFF#32, low := 0#33, cache := 0x00#8, cacheSize := 1, phase := .ready }
    dec := { range := 0xFFFFFFFF#32, code := 0#32, phase := .uninit }
    sink := { written := [], released := 0, answers := [] }
    source := { taken := 0, answers := [] }
    moves := []
    responses := []
    freeEncCount := 0
    freeDecCount := 0 }

end Sys2Proof.Machine
end

