-- ==== Sys2Proof/Machine/Operands.lean ====
section
/-! DEFINITION. The operand forms (30_encoding.md R72, R73) and the probability cell's datapath
(40_probability_cell.md R100 to R104). -/

namespace Sys2Proof.Machine

/-- The P operand zero-extended to 32 bits, where Bound multiplies with it (R73). -/
def cellWord (p : Prob) : Word := p.setWidth 32

/-- What a coded bit adds into ENC.low: the width `v` for a 1, nothing for a 0 (R137, R138). -/
def addendFor (b : Bool) (v : Word) : Low := if b then v.setWidth 33 else 0#33

/-- `Bound(r, p) = (r >> PROB_BITS) * zext_32(p)` (R100). -/
def bound (r : Word) (p : Prob) : Word := (r >>> Config.probBits) * cellWord p

/-- `Inc(p) = p + ((TOTAL - p) >> MOVE_BITS)` (R101), on naturals, then narrowed. -/
def inc (p : Prob) : Prob := BitVec.ofNat 11 (p.toNat + (Config.total - p.toNat) / 2 ^ Config.moveBits)

/-- `Dec(p) = p - (p >> MOVE_BITS)` (R102), on naturals, then narrowed. -/
def dec (p : Prob) : Prob := BitVec.ofNat 11 (p.toNat - p.toNat / 2 ^ Config.moveBits)

/-- R104: "Inc is used for bit 0 and Dec for bit 1." -/
def cellUpdate (b : Bool) (p : Prob) : Prob := if b then dec p else inc p

end Sys2Proof.Machine
end

