-- ==== Sys2Proof/Machine/Flags.lean ====
section
/-! DEFINITION. RC-CORE has no flags register (10_state.md R31): here are the carry and sign tests of its rules and the
response word, which "carries the only flag-like outputs". -/

namespace Sys2Proof.Machine

/-- The carry, `ENC.low[32]` (R131). -/
def carry (e : EncUnit) : Bool := e.low.getLsbD 32

/-- `ENC.low[31:0]`. -/
def low32 (e : EncUnit) : Word := e.low.extractLsb' 0 32

/-- The flush path's condition (R132): `ENC.low[31:0] < 0xFF000000 or c = 1`. -/
def takesFlushPath (e : EncUnit) : Bool := decide (low32 e < 0xFF000000#32) || carry e

/-- A held byte plus the carry, mod 2^8 (R130). -/
def plusCarry (c : Bool) (v : Byte) : Byte := v + BitVec.ofNat 8 c.toNat

/-- `t[31]`, the "sign of the result (top bit)" of DEC.DIRECT (R8, R182). -/
def signBit (t : Word) : Bool := t.getLsbD 31

/-- possiblyAtEnd: `DEC.code = 0` (R184). -/
def atEnd (d : DecUnit) : Bool := decide (d.code = 0#32)

/-- The STATUS code (R77). -/
def statusCode : Status → Nat
  | .ok => 0
  | .errIllegal => 1
  | .errSeq => 2
  | .errIo => 3
  | .errEod => 4
  | .errMalformed => 5
  | .errInvariant => 6

/-- The status a raise reports (R77, R237). -/
def fatalStatus : Fatal → Status
  | .io => .errIo
  | .eod => .errEod
  | .malformed => .errMalformed
  | .invariant => .errInvariant

/-- The response word: STATUS in bits 2:0, BIT in bit 3, bit 4 always 0, P in bits 15:5 (R76). -/
def responseWord (st : Status) (bit : Bool) (p : Prob) : ResponseWord :=
  BitVec.ofNat 16 (p.toNat * 32 + bit.toNat * 8 + statusCode st)

end Sys2Proof.Machine
end

