-- ==== Sys2Proof/Machine/Ops.lean ====
section
/-! DEFINITION. The shared operations: field updates, the stream primitives (20_memory.md), taking an error and starting a
session (60_exceptions.md, 70_reset_and_hazards.md), ShiftLow and the two normalizations (41_encoder.md, 42_decoder.md). -/

namespace Sys2Proof.Machine

/-! ### Field updates -/

def State.setEnc (s : State) (e : EncUnit) : State := { s with enc := e }

def State.setDec (s : State) (d : DecUnit) : State := { s with dec := d }

def State.setSink (s : State) (k : SinkPort) : State := { s with sink := k }

def State.setSource (s : State) (r : SourcePort) : State := { s with source := r }

def State.setMoves (s : State) (m : List HostMove) : State := { s with moves := m }

def State.setFreeEncCount (s : State) (n : Nat) : State := { s with freeEncCount := n }

def State.setFreeDecCount (s : State) (n : Nat) : State := { s with freeDecCount := n }

/-- Delivers one response word (R76, R82). -/
def State.respond (s : State) (st : Status) (bit : Bool) (p : Prob) : State :=
  { s with responses := s.responses ++ [responseWord st bit p] }

/-! ### Sequencing (R12) -/

/-- Goes on with `k`, unless a raise ended the command: "No later statement of that command executes". -/
def andThen {α β : Type} (x : Flow α) (k : α → State → Flow β) : Flow β :=
  match x with
  | .go a s => k a s
  | .raise f s => .raise f s

/-! ### The stream primitives -/

/-- The sink's next answer, and the state with it taken; past the listed answers the sink answers OK (log 1). -/
def takeSinkAnswer (s : State) : SinkAnswer × State :=
  match s.sink.answers with
  | [] => (.ok, s)
  | a :: rest => (a, s.setSink { s.sink with answers := rest })

/-- SinkWrite(b) (R51). -/
def sinkWrite (b : Byte) (s : State) : Flow Unit :=
  match takeSinkAnswer s with
  | (.ok, t) => .go () (t.setSink { t.sink with written := t.sink.written ++ [b] })
  | (.err, t) => .raise .io t

/-- `repeat n times: SinkWrite(b)` (R12). -/
def sinkWriteRepeat (b : Byte) : Nat → State → Flow Unit
  | 0, s => .go () s
  | n + 1, s => andThen (sinkWrite b s) fun _ t => sinkWriteRepeat b n t

/-- SinkFlush() (R52): on OK the sink has released every byte written so far. -/
def sinkFlush (s : State) : Flow Unit :=
  match takeSinkAnswer s with
  | (.ok, t) => .go () (t.setSink { t.sink with released := t.sink.written.length })
  | (.err, t) => .raise .io t

/-- The source's next answer, and the state with it taken; past the listed answers the source answers EOD (log 1). -/
def takeSourceAnswer (s : State) : SourceAnswer × State :=
  match s.source.answers with
  | [] => (.eod, s)
  | a :: rest => (a, s.setSource { s.source with answers := rest })

/-- SourceRead() (R53). -/
def sourceRead (s : State) : Flow Byte :=
  match takeSourceAnswer s with
  | (.byte v, t) => .go v (t.setSource { t.source with taken := t.source.taken + 1 })
  | (.eod, t) => .raise .eod t
  | (.err, t) => .raise .io t

/-! ### Errors -/

/-- ERR_ILLEGAL: nothing but the response (R231). -/
def refuseIllegal (s : State) : State := s.respond .errIllegal false 0#11

/-- ERR_SEQ: nothing but the response (R232). -/
def refuseSeq (s : State) : State := s.respond .errSeq false 0#11

/-- A unit goes to FAILED: its other registers are unspecified, so free values (R37; log 4). -/
def failUnit (u : CoderUnit) (s : State) : State :=
  match u with
  | .enc =>
    let n := s.freeEncCount
    (s.setEnc
      { range := Config.freeEncRange n
        low := Config.freeEncLow n
        cache := Config.freeEncCache n
        cacheSize := Config.freeEncCacheSize n % 2 ^ s.config.wCS
        phase := .failed }).setFreeEncCount (n + 1)
  | .dec =>
    let n := s.freeDecCount
    (s.setDec
      { range := Config.freeDecRange n
        code := Config.freeDecCode n
        phase := .failed }).setFreeDecCount (n + 1)

/-- TAKING A FATAL STATUS (R237, R238), the one shared operation: the effects before the raise stay, the unit goes to FAILED,
and the response reports the status, BIT = 0, and the P the command had placed in it (R76). -/
def takeFatal (u : CoderUnit) (f : Fatal) (p : Prob) (s : State) : State :=
  (failUnit u s).respond (fatalStatus f) false p

/-- LEAVING FAILED, for ENC: ENC.INIT "overwrites every register of the unit" (R136, R239). -/
def encSessionStart (s : State) : State :=
  s.setEnc { range := Config.rangeInit, low := 0#33, cache := 0x00#8, cacheSize := 1, phase := .ready }

/-- The first two assignments of DEC.INIT (R181). -/
def decSessionStart (s : State) : State :=
  s.setDec { s.dec with range := Config.rangeInit, code := 0#32 }

/-- Reset(), asserted by the host between commands (R270); it touches neither stream (R271). -/
def hardwareReset (s : State) : State :=
  (encSessionStart s).setDec { range := Config.rangeInit, code := 0#32, phase := .uninit }

/-! ### Command framing -/

/-- The end of a command (R83 step 3): OK with its BIT and P, or the fatal status raised first. `pRaised` is the P the response
holds when a fatal status is raised: p' for ENC.BIT and DEC.BIT, 0 for the others (R76). -/
def endCommand (u : CoderUnit) (pRaised : Prob) (x : Flow (Bool × Prob)) : Host.Outcome State Fault Refusal :=
  match x with
  | .go (bit, p) s => .next (s.respond .ok bit p)
  | .raise f s => .next (takeFatal u f pRaised s)

/-- ENC.DIRECT, ENC.BIT and ENC.FLUSH are accepted when ENC.phase = READY (R232). -/
def whenEncReady (s : State) (k : Host.Outcome State Fault Refusal) : Host.Outcome State Fault Refusal :=
  if s.enc.phase = .ready then k else .next (refuseSeq s)

/-- DEC.DIRECT, DEC.BIT and DEC.ATEND are accepted when DEC.phase = READY (R232). -/
def whenDecReady (s : State) (k : Host.Outcome State Fault Refusal) : Host.Outcome State Fault Refusal :=
  if s.dec.phase = .ready then k else .next (refuseSeq s)

/-- A command that uses P is illegal with P = 0 (R74 d). The decoder never gives such a term (log 10). -/
def whenCellLegal (p : Prob) (s : State) (k : Host.Outcome State Fault Refusal) : Host.Outcome State Fault Refusal :=
  if p = 0#11 then .next (refuseIllegal s) else k

/-! ### ShiftLow and EncNormalize -/

/-- ShiftLow's last lines (R130): the counter's limit check (R134 b), the increment, the shift that clears the carry. -/
def countAndShift (s : State) : Flow Unit :=
  if s.enc.cacheSize = s.config.maxCacheSize then .raise .invariant s
  else
    .go ()
      (s.setEnc
        { s.enc with
          cacheSize := s.enc.cacheSize + 1
          low := (s.enc.low.extractLsb' 0 24).setWidth 33 <<< 8 })

/-- The flush path's writes (R132): the cache byte and every pending 0xFF, each plus the carry (90_conflicts.md C1, C2). -/
def writeHeldBytes (s : State) : Flow Unit :=
  andThen (sinkWrite (plusCarry (carry s.enc) s.enc.cache) s) fun _ t =>
    sinkWriteRepeat (plusCarry (carry s.enc) 0xFF#8) (s.enc.cacheSize - 1) t

/-- The flush path's two assignments (R130; 92_eei_decisions.md D31). -/
def holdBackNext (s : State) : State :=
  s.setEnc { s.enc with cacheSize := 0, cache := s.enc.low.extractLsb' 24 8 }

/-- ShiftLow() (R130). -/
def shiftLow (s : State) : Flow Unit :=
  if takesFlushPath s.enc then
    if s.enc.cacheSize = 0 then .raise .invariant s
    else andThen (writeHeldBytes s) fun _ t => countAndShift (holdBackNext t)
  else countAndShift s

/-- `repeat n times: ShiftLow()` (R139). -/
def shiftLowRepeat : Nat → State → Flow Unit
  | 0, s => .go () s
  | n + 1, s => andThen (shiftLow s) fun _ t => shiftLowRepeat n t

/-- EncNormalize() (R135): one `if`, never a loop (90_conflicts.md C6). -/
def encNormalize (s : State) : Flow Unit :=
  if s.enc.range < Config.top then shiftLow (s.setEnc { s.enc with range := s.enc.range <<< 8 })
  else .go () s

/-- The interval step of ENC.DIRECT and ENC.BIT: `low <- (low + add) mod 2^33`, `range <- r` (R137, R138). -/
def encNarrow (r : Word) (add : Low) (s : State) : State :=
  s.setEnc { s.enc with range := r, low := s.enc.low + add }

/-! ### DecNormalize and the header -/

/-- `DEC.code <- ((DEC.code << 8) mod 2^32) | v` (R180, R181; most significant byte first, R58). -/
def foldByte (v : Byte) (s : State) : State :=
  s.setDec { s.dec with code := (s.dec.code <<< 8) ||| v.setWidth 32 }

/-- DecNormalize() (R180). -/
def decNormalize (s : State) : Flow Unit :=
  if s.dec.range < Config.top then
    andThen (sourceRead (s.setDec { s.dec with range := s.dec.range <<< 8 })) fun v t => .go () (foldByte v t)
  else .go () s

/-- The header's code bytes: `repeat n times` read a byte and fold it in (R181). -/
def readCodeBytes : Nat → State → Flow Unit
  | 0, s => .go () s
  | n + 1, s => andThen (sourceRead s) fun v t => readCodeBytes n (foldByte v t)

/-- The header's leading byte: it must be 0x00, "checked before any further read" (R181). -/
def readLeadingZero (s : State) : Flow Unit :=
  andThen (sourceRead s) fun v t => if v = 0x00#8 then .go () t else .raise .malformed t

/-- The check after the header: `DEC.code ≥ DEC.range` is malformed (R181). -/
def checkCode (s : State) : Flow Unit :=
  if s.dec.range ≤ s.dec.code then .raise .malformed s else .go () s

/-! ### Fetching -/

/-- The host's next move at the idle command port (R82), and the state with it taken. -/
def takeMove (s : State) : Option (HostMove × State) :=
  match s.moves with
  | [] => none
  | m :: rest => some (m, s.setMoves rest)

end Sys2Proof.Machine
end

