-- ==== Sys2Proof/Machine/Cell.lean ====
section
/-! DEFINITION. The cell commands (40_probability_cell.md R105, R106). -/

namespace Sys2Proof.Machine

/-- P.INC p (R105): the response only; no phase check. -/
def execPInc (p : Prob) (s : State) : Host.Outcome State Fault Refusal :=
  whenCellLegal p s (.next (s.respond .ok false (inc p)))

/-- P.DEC p (R106): the response only; no phase check. -/
def execPDec (p : Prob) (s : State) : Host.Outcome State Fault Refusal :=
  whenCellLegal p s (.next (s.respond .ok false (dec p)))

end Sys2Proof.Machine
end

