-- ==== Sys2Proof/Machine/Decoder.lean ====
section
/-! DEFINITION. The decoder commands (42_decoder.md R181 to R184). -/

namespace Sys2Proof.Machine

/-- DEC.INIT (R181): accepted in every phase. -/
def execDecInit (s : State) : Host.Outcome State Fault Refusal :=
  endCommand .dec 0#11 <|
    andThen (readLeadingZero (decSessionStart s)) fun _ t =>
      andThen (readCodeBytes 4 t) fun _ u =>
        andThen (checkCode u) fun _ v => .go (false, 0#11) (v.setDec { v.dec with phase := .ready })

/-- DEC.DIRECT (R182): the bit is chosen by `t[31]`, not by comparing DEC.code with the halved range. -/
def execDecDirect (s : State) : Host.Outcome State Fault Refusal :=
  whenDecReady s <|
    let half := s.dec.range >>> 1
    let t := s.dec.code - half
    let bit := !signBit t
    let code := if signBit t then t + half else t
    endCommand .dec 0#11 <|
      andThen (decNormalize (s.setDec { s.dec with range := half, code := code })) fun _ u => .go (bit, 0#11) u

/-- DEC.BIT p (R183). -/
def execDecBit (p : Prob) (s : State) : Host.Outcome State Fault Refusal :=
  whenCellLegal p s <| whenDecReady s <|
    let bd := bound s.dec.range p
    let bit := decide (¬ s.dec.code < bd)
    let d : DecUnit :=
      if bit then { s.dec with range := s.dec.range - bd, code := s.dec.code - bd } else { s.dec with range := bd }
    let p' := cellUpdate bit p
    endCommand .dec p' <|
      andThen (decNormalize (s.setDec d)) fun _ u => .go (bit, p') u

/-- DEC.ATEND (R184): the response only. -/
def execDecAtend (s : State) : Host.Outcome State Fault Refusal :=
  whenDecReady s (.next (s.respond .ok (atEnd s.dec) 0#11))

end Sys2Proof.Machine
end

