-- ==== Sys2Proof/Machine/Encoder.lean ====
section
/-! DEFINITION. The encoder commands (41_encoder.md R136 to R139). -/

namespace Sys2Proof.Machine

/-- ENC.INIT (R136): accepted in every phase, touches no stream. -/
def execEncInit (s : State) : Host.Outcome State Fault Refusal :=
  .next ((encSessionStart s).respond .ok false 0#11)

/-- ENC.DIRECT b (R137). -/
def execEncDirect (b : Bool) (s : State) : Host.Outcome State Fault Refusal :=
  whenEncReady s <|
    let half := s.enc.range >>> 1
    endCommand .enc 0#11 <|
      andThen (encNormalize (encNarrow half (addendFor b half) s)) fun _ t => .go (false, 0#11) t

/-- ENC.BIT b, p (R138): the cell update comes before the normalization, so the response holds p' even when that fails. -/
def execEncBit (b : Bool) (p : Prob) (s : State) : Host.Outcome State Fault Refusal :=
  whenCellLegal p s <| whenEncReady s <|
    let bd := bound s.enc.range p
    let r := if b then s.enc.range - bd else bd
    let p' := cellUpdate b p
    endCommand .enc p' <|
      andThen (encNormalize (encNarrow r (addendFor b bd) s)) fun _ t => .go (false, p') t

/-- ENC.FLUSH (R139). -/
def execEncFlush (s : State) : Host.Outcome State Fault Refusal :=
  whenEncReady s <|
    endCommand .enc 0#11 <|
      andThen (shiftLowRepeat Config.flushShifts s) fun _ t =>
        andThen (sinkFlush t) fun _ u => .go (false, 0#11) (u.setEnc { u.enc with phase := .flushed })

end Sys2Proof.Machine
end

