-- ==== Sys2Proof/Machine/Dispatch.lean ====
section
/-! DEFINITION. One arm per command: each calls its meaning. -/

namespace Sys2Proof.Machine

def exec (i : Instr) (s : State) : Host.Outcome State Fault Refusal :=
  match i with
  | .encInit => Sys2Proof.Machine.execEncInit s
  | .encDirect b => Sys2Proof.Machine.execEncDirect b s
  | .encBit b p => Sys2Proof.Machine.execEncBit b p s
  | .encFlush => Sys2Proof.Machine.execEncFlush s
  | .pInc p => Sys2Proof.Machine.execPInc p s
  | .pDec p => Sys2Proof.Machine.execPDec p s
  | .decInit => Sys2Proof.Machine.execDecInit s
  | .decDirect => Sys2Proof.Machine.execDecDirect s
  | .decBit p => Sys2Proof.Machine.execDecBit p s
  | .decAtend => Sys2Proof.Machine.execDecAtend s

end Sys2Proof.Machine
end

