-- ==== Sys2Proof/Machine/Step.lean ====
section
/-! DEFINITION. One step: RC-CORE takes the host's next move and carries it out (30_encoding.md R82, R83; 20_memory.md R65). -/

namespace Sys2Proof.Machine

/-- One accepted command word (R83): illegal words are answered first; the phase check and the rule are exec's. -/
def acceptWord (w : CommandWord) (s : State) : Host.Outcome State Fault Refusal :=
  match decode w with
  | .error _ => .next (refuseIllegal s)
  | .ok i => exec i s

/-- With no move RC-CORE "is idle and holds its state" (R245); a command word is one atomic step (R278); reset comes only between
commands (R270). -/
def step (s : State) : Host.Outcome State Fault Refusal :=
  match takeMove s with
  | none => .next s
  | some (.command w, t) => acceptWord w t
  | some (.reset, t) => .next (hardwareReset t)

/-- The host issues the word as its very next move (log 5). -/
def State.withFetchWord (s : State) (nbits w : Nat) : State :=
  s.setMoves (.command (BitVec.ofNat 16 (w % 2 ^ nbits)) :: s.moves)

end Sys2Proof.Machine
end

