-- ==== Sys2Proof/Safety.lean ====
section
/-! DEFINITION. The terms claims about RC-CORE are stated in: the rules' results written on naturals (00_scope.md R8) apart from
the machine, the invariants of 10_state.md R34 to R36, and coding sessions (70_reset_and_hazards.md R276, R279). -/

namespace Sys2Proof.Machine

/-! ### The host's answers -/

/-- The sink answers OK to the next `n` requests, whatever it answers after them (past its list it answers OK, log 1). -/
abbrev SinkAcceptsNext (n : Nat) (s : State) : Prop := ∀ a ∈ s.sink.answers.take n, a = SinkAnswer.ok

/-! ### ShiftLow and EncNormalize on naturals -/

/-- ShiftLow's defer path (R133): bits 31:24 of ENC.low are 0xFF and there is no carry. -/
abbrev Defers (e : EncUnit) : Prop := 0xFF000000 ≤ e.low.toNat ∧ e.low.toNat < 2 ^ 32

/-- The bytes one ShiftLow writes (R132, R133). -/
def shiftBytes (e : EncUnit) : List Byte :=
  if Defers e then []
  else
    BitVec.ofNat 8 (e.cache.toNat + e.low.toNat / 2 ^ 32) ::
      List.replicate (e.cacheSize - 1) (BitVec.ofNat 8 (0xFF + e.low.toNat / 2 ^ 32))

/-- ENC after one ShiftLow that raises nothing (R130). -/
def shifted (e : EncUnit) : EncUnit :=
  { e with
    low := BitVec.ofNat 33 (e.low.toNat % 2 ^ 24 * 2 ^ 8)
    cache := if Defers e then e.cache else BitVec.ofNat 8 (e.low.toNat % 2 ^ 32 / 2 ^ 24)
    cacheSize := if Defers e then e.cacheSize + 1 else 1 }

/-- ShiftLow's two counter checks find nothing (R134): the flush path has a byte to flush, and the count can grow. -/
abbrev CountFits (c : Config) (e : EncUnit) : Prop :=
  if Defers e then e.cacheSize + 1 ≠ 2 ^ c.wCS else e.cacheSize ≠ 0 ∧ 1 ≠ 2 ^ c.wCS

/-- ENC after `n` ShiftLows that raise nothing (R139). -/
def afterShifts : Nat → EncUnit → EncUnit
  | 0, e => e
  | n + 1, e => afterShifts n (shifted e)

/-- The bytes `n` ShiftLows write, in order (R59, R139). -/
def shiftsBytes : Nat → EncUnit → List Byte
  | 0, _ => []
  | n + 1, e => shiftBytes e ++ shiftsBytes n (shifted e)

/-- None of the first `n` ShiftLows fails a counter check (R134). -/
abbrev ShiftsFit (c : Config) (n : Nat) (e : EncUnit) : Prop := ∀ k < n, CountFits c (afterShifts k e)

/-- EncNormalize shifts (R135). -/
abbrev NeedsShift (r : Word) : Prop := r.toNat < 2 ^ 24

/-- ENC with its range shifted, as EncNormalize hands it to ShiftLow (R135). -/
def rangeShifted (e : EncUnit) : EncUnit := { e with range := BitVec.ofNat 32 (e.range.toNat * 2 ^ 8) }

/-- ENC after an EncNormalize that raises nothing (R135). -/
def normalized (e : EncUnit) : EncUnit := if NeedsShift e.range then shifted (rangeShifted e) else e

/-- The bytes an EncNormalize writes (R135). -/
def normalizeBytes (e : EncUnit) : List Byte := if NeedsShift e.range then shiftBytes e else []

/-- The state with ENC at `e` and the bytes `bs` accepted by the sink, one answer taken for each. -/
def afterWrites (s : State) (e : EncUnit) (bs : List Byte) : State :=
  { s with
    enc := e
    sink := { s.sink with written := s.sink.written ++ bs, answers := s.sink.answers.drop bs.length } }

/-! ### Coding one bit -/

/-- One bit a session codes (R276): with fixed probability, or with a cell whose current value is `p`. -/
inductive CodedBit where
  | direct (b : Bool)
  | adaptive (b : Bool) (p : Prob)
  deriving DecidableEq, Repr

/-- The bit itself. -/
def CodedBit.bit : CodedBit → Bool
  | .direct b => b
  | .adaptive b _ => b

/-- The encoder command (R276). -/
def CodedBit.encCommand : CodedBit → Instr
  | .direct b => .encDirect b
  | .adaptive b p => .encBit b p

/-- The decoder command that matches it (R276). -/
def CodedBit.decCommand : CodedBit → Instr
  | .direct _ => .decDirect
  | .adaptive _ p => .decBit p

/-- Every command of the bit is legal (R74 d). -/
abbrev CodedBit.Legal : CodedBit → Prop
  | .direct _ => True
  | .adaptive _ p => p ≠ 0#11

/-- Inc(p) and Dec(p) on naturals (R101, R102): Inc for bit 0, Dec for bit 1 (R104). -/
def newCell (b : Bool) (p : Nat) : Nat := if b then p - p / 2 ^ 5 else p + (2048 - p) / 2 ^ 5

/-- The P of the response (R76): p' for an adaptive bit, 0 for a direct one. -/
def CodedBit.responseP : CodedBit → Nat
  | .direct _ => 0
  | .adaptive b p => newCell b p.toNat

/-- The width the bit's 0 outcome gets: the halved range (R137), or Bound (R100). -/
def CodedBit.zeroWidth (c : CodedBit) (r : Nat) : Nat :=
  match c with
  | .direct _ => r / 2
  | .adaptive _ p => r / 2 ^ 11 * p.toNat

/-- The width the bit's 1 outcome gets: the halved range (R137), or the rest (R138). -/
def CodedBit.oneWidth (c : CodedBit) (r : Nat) : Nat :=
  match c with
  | .direct _ => r / 2
  | .adaptive _ p => r - r / 2 ^ 11 * p.toNat

/-- ENC before the normalization (R137, R138): a 1 adds the 0 outcome's width into low. -/
def CodedBit.narrow (c : CodedBit) (e : EncUnit) : EncUnit :=
  let r := e.range.toNat
  { e with
    range := BitVec.ofNat 32 (if c.bit then c.oneWidth r else c.zeroWidth r)
    low := BitVec.ofNat 33 (if c.bit then e.low.toNat + c.zeroWidth r else e.low.toNat) }

/-- A response word from numbers (R76). -/
def response (status bit p : Nat) : ResponseWord := BitVec.ofNat 16 (p * 2 ^ 5 + bit * 2 ^ 3 + status)

/-! ### The number the encoder holds back -/

/-- `n` bytes, most significant first (R57), of a number taken mod 256^n. -/
def bigEndian : Nat → Nat → List Byte
  | 0, _ => []
  | n + 1, v => BitVec.ofNat 8 (v / 256 ^ n) :: bigEndian n v

/-- What ENC holds back, as a number: the cache byte, the pending 0xFF bytes, then ENC.low with its carry (R24, R131). -/
def heldNumber (e : EncUnit) : Nat :=
  (e.cache.toNat * 256 ^ (e.cacheSize - 1) + (256 ^ (e.cacheSize - 1) - 1)) * 2 ^ 32 + e.low.toNat

/-! ### Decoding one bit on naturals -/

/-- DEC.DIRECT before the normalization (R182): the bit, and DEC. -/
def directDecoded (d : DecUnit) : Bool × DecUnit :=
  let half := d.range.toNat / 2
  let t := (d.code.toNat + 2 ^ 32 - half) % 2 ^ 32
  if 2 ^ 31 ≤ t then (false, { d with range := BitVec.ofNat 32 half })
  else (true, { d with range := BitVec.ofNat 32 half, code := BitVec.ofNat 32 t })

/-- DEC.BIT before the normalization (R183): the bit, and DEC. -/
def adaptiveDecoded (p : Prob) (d : DecUnit) : Bool × DecUnit :=
  let bd := d.range.toNat / 2 ^ 11 * p.toNat
  if d.code.toNat < bd then (false, { d with range := BitVec.ofNat 32 bd })
  else
    (true, { d with range := BitVec.ofNat 32 (d.range.toNat - bd), code := BitVec.ofNat 32 (d.code.toNat - bd) })

/-- DEC after a DecNormalize that read `v` (R180). -/
def readIn (d : DecUnit) (v : Byte) : DecUnit :=
  { d with
    range := BitVec.ofNat 32 (d.range.toNat * 2 ^ 8)
    code := BitVec.ofNat 32 (d.code.toNat % 2 ^ 24 * 2 ^ 8 + v.toNat) }

/-- The value of bytes, most significant first (R58). -/
def bigEndianValue (bs : List Byte) : Nat := bs.foldl (fun n b => n * 256 + b.toNat) 0

/-! ### Invariants -/

/-- R34 (a), (b), and the claim J of R141 (c), while ENC is READY; the counter fits its width (R24), and W_CS is legal (R7). -/
abbrev EncInv (s : State) : Prop :=
  s.config.wf = true ∧ s.enc.cacheSize < 2 ^ s.config.wCS ∧
  (s.enc.phase = .ready →
    s.enc.low.toNat + s.enc.range.toNat < 2 ^ 33 ∧ 1 ≤ s.enc.cacheSize ∧
    (s.enc.cache = 0xFF#8 → s.enc.low.toNat + s.enc.range.toNat < 2 ^ 32))

/-- The band of P values for which the range invariant of R35 holds. -/
abbrev InBand (p : Prob) : Prop := 8 ≤ p.toNat ∧ p.toNat ≤ 2040

/-- An instruction's P operand, if it has one, lies in that band. -/
abbrev CellInBand : Instr → Prop
  | .encBit _ p | .decBit p => InBand p
  | .encInit | .encDirect _ | .encFlush | .pInc _ | .pDec _ | .decInit | .decDirect | .decAtend => True

/-- R35: each READY unit's range is at least 2^24 between commands. -/
abbrev RangesWide (s : State) : Prop :=
  (s.enc.phase = .ready → 2 ^ 24 ≤ s.enc.range.toNat) ∧ (s.dec.phase = .ready → 2 ^ 24 ≤ s.dec.range.toNat)

/-! ### Which unit a command is of, and when it is accepted -/

/-- The commands of ENC (R71). -/
abbrev IsEncCommand : Instr → Prop
  | .encInit | .encDirect _ | .encBit _ _ | .encFlush => True
  | .pInc _ | .pDec _ | .decInit | .decDirect | .decBit _ | .decAtend => False

/-- The commands of DEC (R71). -/
abbrev IsDecCommand : Instr → Prop
  | .decInit | .decDirect | .decBit _ | .decAtend => True
  | .encInit | .encDirect _ | .encBit _ _ | .encFlush | .pInc _ | .pDec _ => False

/-- R232's table: the command's unit is in a phase the command accepts. -/
abbrev AcceptedIn : Instr → State → Prop
  | .encDirect _, s | .encBit _ _, s | .encFlush, s => s.enc.phase = .ready
  | .decDirect, s | .decBit _, s | .decAtend, s => s.dec.phase = .ready
  | .encInit, _ | .decInit, _ | .pInc _, _ | .pDec _, _ => True

/-- The four cases of R74 on the fields of the word: OP is bits 3:0, B bit 4, P bits 15:5 (R70). -/
abbrev IllegalWord (w : CommandWord) : Prop :=
  w.toNat % 16 ∈ [0x6, 0x7, 0xC, 0xD, 0xE, 0xF] ∨
  (w.toNat / 16 % 2 = 1 ∧ w.toNat % 16 ∈ [0x0, 0x3, 0x4, 0x5, 0x8, 0x9, 0xA, 0xB]) ∨
  (w.toNat / 32 ≠ 0 ∧ w.toNat % 16 ∈ [0x0, 0x1, 0x3, 0x8, 0x9, 0xB]) ∨
  (w.toNat / 32 = 0 ∧ w.toNat % 16 ∈ [0x2, 0x4, 0x5, 0xA])

/-! ### Runs of commands -/

/-- The commands carried out one after another, stopping at anything but a next state. -/
def runCommands : List Instr → State → State
  | [], s => s
  | i :: is, s =>
    match exec i s with
    | .next t => runCommands is t
    | .fault _ | .refused _ => s

/-- The responses delivered since `s`. -/
def responsesSince (s t : State) : List ResponseWord := t.responses.drop s.responses.length

/-- Every response since `s` has STATUS = OK. -/
abbrev AllOk (s t : State) : Prop := (responsesSince s t).all (fun r => r.toNat % 8 == 0) = true

/-- The bytes the sink accepted since `s`. -/
def bytesSince (s t : State) : List Byte := t.sink.written.drop s.sink.written.length

/-- ENC stands where ENC.INIT or reset leaves it (R136, R39). -/
abbrev AtEncStart (s : State) : Prop :=
  s.enc = { range := 0xFFFFFFFF#32, low := 0#33, cache := 0#8, cacheSize := 1, phase := .ready }

/-- The state after the session's first `k` bits. -/
def encPrefix (cs : List CodedBit) (k : Nat) (s : State) : State := runCommands ((cs.take k).map CodedBit.encCommand) s

/-- A whole encoder session: every bit, then ENC.FLUSH (R276). -/
def encSession (cs : List CodedBit) (s : State) : State := runCommands (cs.map CodedBit.encCommand ++ [.encFlush]) s

/-- The decoder session that matches the first `k` bits: DEC.INIT, then the matching commands (R276). -/
def decPrefix (cs : List CodedBit) (k : Nat) (d : State) : State :=
  runCommands (.decInit :: (cs.take k).map CodedBit.decCommand) d

/-- How many of the session's bits make EncNormalize shift. -/
def shiftCount : List CodedBit → State → Nat
  | [], _ => 0
  | c :: cs, s =>
    (if NeedsShift (c.narrow s.enc).range then 1 else 0) + shiftCount cs (runCommands [c.encCommand] s)

end Sys2Proof.Machine
end

