-- ==== Sys2Proof/Certificates/Slice0/Obligations.lean ====
section
/-! DEFINITION. The statements about RC-CORE for the provers. -/

open Sys2Proof Sys2Proof.Machine

/-! ### The command word -/

/-- R71, R79: decoding the word of a well-formed command gives the command back, at every operand value. -/
def Obligations.EncodeThenDecodeGivesTheCommand : Prop :=
  ∀ i : Instr, i.wf = true → decode (encode i) = .ok i

/-- R78, R79: a word the decoder accepts is the word of that well-formed command, so no bit of it is dropped. -/
def Obligations.DecodeThenEncodeGivesTheWord : Prop :=
  ∀ (w : CommandWord) (i : Instr), decode w = .ok i → i.wf = true ∧ encode i = w

/-- R78: each of the 65536 words matches exactly one row of R79 and decodes to that row's command, or matches none, and then it is
illegal by one of the cases of R74. -/
def Obligations.EveryWordIsOneCommandOrIllegal : Prop :=
  ∀ w : CommandWord,
    (∃ i, decode w = .ok i ∧ ¬ IllegalWord w ∧
      (opcodeRows.filter fun r => rowMatches r w).map OpcodeRow.mnemonic = [mnemonic i]) ∨
    (∃ r, decode w = .error r ∧ IllegalWord w ∧ (opcodeRows.filter fun r => rowMatches r w) = [])

/-- R79, R80: words written out from the encoding tables, and what they stand for. -/
def Obligations.WordsOfTheSpecDecode : Prop :=
  decode 0b0000000000000000#16 = .ok .encInit ∧
  decode 0b0000000000010001#16 = .ok (.encDirect true) ∧
  decode 0b1000000000010010#16 = .ok (.encBit true 1024#11) ∧
  decode 0b0000000000000011#16 = .ok .encFlush ∧
  decode 0b1000000000000100#16 = .ok (.pInc 1024#11) ∧
  decode 0b1000000000000101#16 = .ok (.pDec 1024#11) ∧
  decode 0b0000000000001000#16 = .ok .decInit ∧
  decode 0b0000000000001001#16 = .ok .decDirect ∧
  decode 0b1000000000001010#16 = .ok (.decBit 1024#11) ∧
  decode 0b0000000000001011#16 = .ok .decAtend ∧
  decode 0b0000000000000110#16 = .error .reservedOp

/-! ### A step -/

/-- R82, R83, R245: with a legal word at the port a step is exec of its command on the state with the word taken; with nothing at
the port the state is held. -/
def Obligations.StepRunsTheDecodedCommand : Prop :=
  (∀ (s : State) (w : CommandWord) (rest : List HostMove) (i : Instr),
    s.moves = .command w :: rest → decode w = .ok i → step s = exec i { s with moves := rest }) ∧
  (∀ s : State, s.moves = [] → step s = .next s)

/-- R74, R231: an illegal word, in any state, is answered with STATUS = ERR_ILLEGAL, BIT = 0, P = 0, and nothing else changes. -/
def Obligations.IllegalWordIsOnlyAnswered : Prop :=
  ∀ (s : State) (w : CommandWord) (rest : List HostMove),
    s.moves = .command w :: rest → IllegalWord w →
    step s = .next { s with moves := rest, responses := s.responses ++ [0x0001#16] }

/-- R270, R271: reset sets every register and touches neither stream, delivers no response. -/
def Obligations.HostResetSetsEveryRegister : Prop :=
  ∀ (s : State) (rest : List HostMove), s.moves = .reset :: rest →
    step s = .next
      { s with
        moves := rest
        enc := { range := 0xFFFFFFFF#32, low := 0#33, cache := 0x00#8, cacheSize := 1, phase := .ready }
        dec := { range := 0xFFFFFFFF#32, code := 0#32, phase := .uninit } }

/-- R38: the registers after reset. -/
def Obligations.ResetRegisterValues : Prop :=
  State.reset.enc = { range := 0xFFFFFFFF#32, low := 0#33, cache := 0x00#8, cacheSize := 1, phase := .ready } ∧
  State.reset.dec = { range := 0xFFFFFFFF#32, code := 0#32, phase := .uninit }

/-- R82, R277, R278: every step answers a next state; a command word is taken and answered with exactly one response word, reset
and idling with none; W_CS never changes. (That a command always completes rests on the host answering, log 1 and log 2.) -/
def Obligations.EveryStepAnswersOneResponsePerWord : Prop :=
  ∀ s : State, ∃ t, step s = .next t ∧ t.moves = s.moves.tail ∧ t.config = s.config ∧
    match s.moves with
    | .command _ :: _ => ∃ r, t.responses = s.responses ++ [r]
    | .reset :: _ => t.responses = s.responses
    | [] => t = s

/-- R76: the response word of every command: bit 4, STATUS, BIT and P, as its table has them. -/
def Obligations.ResponseWordFields : Prop :=
  ∀ (i : Instr) (s : State), ∃ t r, exec i s = .next t ∧ t.responses = s.responses ++ [r] ∧
    let status := r.toNat % 8
    let bit := r.toNat / 8 % 2
    let p := r.toNat / 32
    status ≠ 7 ∧ r.toNat / 16 % 2 = 0 ∧
    (status ≠ 0 → bit = 0) ∧ (status = 1 ∨ status = 2 → p = 0) ∧
    match i with
    | .encInit | .encDirect _ | .encFlush | .decInit => bit = 0 ∧ p = 0
    | .encBit b q => bit = 0 ∧ (status ≠ 1 ∧ status ≠ 2 → p = newCell b q.toNat)
    | .pInc q => bit = 0 ∧ (status ≠ 1 → p = newCell false q.toNat)
    | .pDec q => bit = 0 ∧ (status ≠ 1 → p = newCell true q.toNat)
    | .decDirect => p = 0 ∧ (status = 0 → bit = (directDecoded s.dec).1.toNat)
    | .decBit q =>
      (status = 0 → bit = (adaptiveDecoded q s.dec).1.toNat) ∧
      (status ≠ 1 ∧ status ≠ 2 → p = newCell (adaptiveDecoded q s.dec).1 q.toNat)
    | .decAtend => p = 0 ∧ (status = 0 → bit = if s.dec.code = 0#32 then 1 else 0)

/-! ### The probability cell -/

/-- R100: Bound is exact, never truncates, and its corner cases. -/
def Obligations.BoundIsExact : Prop :=
  ∀ (r : Word) (p : Prob),
    (bound r p).toNat = r.toNat / 2 ^ 11 * p.toNat ∧ (bound r p).toNat ≤ 0xFFDFF801 ∧
    (1 ≤ p.toNat → 2 ^ 11 ≤ r.toNat → 1 ≤ (bound r p).toNat ∧ (bound r p).toNat < r.toNat) ∧
    (r.toNat < 2 ^ 11 → bound r p = 0#32) ∧ (p = 0#11 → bound r p = 0#32) ∧ (bound r p).toNat ≤ r.toNat ∧
    bound 0xFFFFFFFF#32 1024#11 = 0x7FFFFC00#32

/-- R101, R102: Inc and Dec are exact on naturals, stay in 1..2047, their fixed points and largest steps. -/
def Obligations.IncAndDecAreExact : Prop :=
  (∀ p : Prob, p ≠ 0#11 →
    (inc p).toNat = p.toNat + (2048 - p.toNat) / 2 ^ 5 ∧ p.toNat ≤ (inc p).toNat ∧
    (inc p = p ↔ 2017 ≤ p.toNat) ∧ (inc p).toNat - p.toNat ≤ 63 ∧
    (dec p).toNat = p.toNat - p.toNat / 2 ^ 5 ∧ 1 ≤ (dec p).toNat ∧ (dec p).toNat ≤ p.toNat ∧
    (dec p = p ↔ p.toNat ≤ 31) ∧ p.toNat - (dec p).toNat ≤ 63) ∧
  (inc 1#11).toNat - 1 = 63 ∧ 2047 - (dec 2047#11).toNat = 63 ∧ inc 1024#11 = 1056#11 ∧ dec 1024#11 = 992#11

/-- R103: the band [31, 2017] is closed under Inc and Dec; from 1024 Inc reaches 2017 after 127 steps, not before, and stays;
Dec likewise 31. -/
def Obligations.CellStaysInItsBand : Prop :=
  (∀ (p : Prob) (b : Bool), 31 ≤ p.toNat → p.toNat ≤ 2017 →
    31 ≤ (cellUpdate b p).toNat ∧ (cellUpdate b p).toNat ≤ 2017) ∧
  (∀ n : Nat, inc^[n] 1024#11 = 2017#11 ↔ 127 ≤ n) ∧
  (∀ n : Nat, dec^[n] 1024#11 = 31#11 ↔ 127 ≤ n)

/-- R103: every value of the band is reached from PROB_INIT = 1024 by some sequence of Inc and Dec. -/
def Obligations.EveryBandValueIsReachable : Prop :=
  ∀ v : Prob, 31 ≤ v.toNat → v.toNat ≤ 2017 → ∃ us : List Bool, us.foldl (fun p b => cellUpdate b p) 1024#11 = v

/-- R105, R106: P.INC and P.DEC answer Inc(p) and Dec(p), in every phase of either unit, and change nothing else; with P = 0 or B = 1
they are illegal. -/
def Obligations.CellCommandsAnswerTheUpdate : Prop :=
  (∀ w : CommandWord, w.toNat % 32 = 0x14 ∨ w.toNat % 32 = 0x15 → ∃ r, decode w = .error r) ∧
  ∀ (p : Prob) (s : State),
    (p ≠ 0#11 →
      exec (.pInc p) s = .next { s with responses := s.responses ++ [response 0 0 (p.toNat + (2048 - p.toNat) / 2 ^ 5)] } ∧
      exec (.pDec p) s = .next { s with responses := s.responses ++ [response 0 0 (p.toNat - p.toNat / 2 ^ 5)] }) ∧
    (p = 0#11 →
      exec (.pInc p) s = .next { s with responses := s.responses ++ [0x0001#16] } ∧
      exec (.pDec p) s = .next { s with responses := s.responses ++ [0x0001#16] })

/-! ### The encoder -/

/-- R132, R133: ShiftLow when the sink accepts the bytes it writes and the count fits: the bytes of the flush path or none, the new
ENC, and nothing else changed; afterwards the carry is clear (R131). -/
def Obligations.ShiftLowFlushesOrDefers : Prop :=
  ∀ s : State, SinkAcceptsNext (shiftBytes s.enc).length s → CountFits s.config s.enc →
    shiftLow s = .go () (afterWrites s (shifted s.enc) (shiftBytes s.enc)) ∧ (shifted s.enc).low.toNat < 2 ^ 32

/-- R136: ENC.INIT, in every phase and from any registers; its word with B or P non-zero is illegal. -/
def Obligations.EncInitStartsASession : Prop :=
  (∀ w : CommandWord, w.toNat % 16 = 0 → w ≠ 0x0000#16 → ∃ r, decode w = .error r) ∧
  ∀ s : State, exec .encInit s = .next
    { s with
      enc := { range := 0xFFFFFFFF#32, low := 0#33, cache := 0x00#8, cacheSize := 1, phase := .ready }
      responses := s.responses ++ [0x0000#16] }

/-- R137: ENC.DIRECT completes, with its whole next state, when ENC is READY, the sink accepts the bytes it writes,
if any, and the count fits. -/
def Obligations.EncDirectCodesTheBit : Prop :=
  ∀ (b : Bool) (s : State),
    let half := s.enc.range.toNat / 2
    let e : EncUnit :=
      { s.enc with
        range := BitVec.ofNat 32 half
        low := BitVec.ofNat 33 (if b then s.enc.low.toNat + half else s.enc.low.toNat) }
    s.enc.phase = .ready → SinkAcceptsNext (normalizeBytes e).length s →
    (NeedsShift e.range → CountFits s.config e) →
    exec (.encDirect b) s = .next
      { afterWrites s (normalized e) (normalizeBytes e) with responses := s.responses ++ [0x0000#16] }

/-- R138: ENC.BIT completes, with its whole next state, when p is legal, ENC is READY, the sink accepts the
bytes it writes, if any, and the count fits. -/
def Obligations.EncBitCodesTheBit : Prop :=
  ∀ (b : Bool) (p : Prob) (s : State),
    let bd := s.enc.range.toNat / 2 ^ 11 * p.toNat
    let e : EncUnit :=
      { s.enc with
        range := BitVec.ofNat 32 (if b then s.enc.range.toNat - bd else bd)
        low := BitVec.ofNat 33 (if b then s.enc.low.toNat + bd else s.enc.low.toNat) }
    p ≠ 0#11 → s.enc.phase = .ready → SinkAcceptsNext (normalizeBytes e).length s →
    (NeedsShift e.range → CountFits s.config e) →
    exec (.encBit b p) s = .next
      { afterWrites s (normalized e) (normalizeBytes e) with
        responses := s.responses ++ [response 0 0 (newCell b p.toNat)] }

/-- R139, R57, R60, R140 (c): ENC.FLUSH completes when ENC is READY, each of its five ShiftLows passes the counter checks, and the
sink accepts their bytes and the flush. It releases every byte and leaves low 0, cache 0, cacheSize 1, the range unchanged, phase
FLUSHED. For a count of at least 1 the bytes are cacheSize + 4 bytes of exactly the number held back, most significant first. -/
def Obligations.EncFlushWritesTheHeldNumber : Prop :=
  (∀ s : State,
    let bytes := shiftsBytes 5 s.enc
    s.enc.phase = .ready → ShiftsFit s.config 5 s.enc → SinkAcceptsNext (bytes.length + 1) s →
    exec .encFlush s = .next
      { s with
        enc := { range := s.enc.range, low := 0#33, cache := 0x00#8, cacheSize := 1, phase := .flushed }
        sink :=
          { written := s.sink.written ++ bytes
            released := (s.sink.written ++ bytes).length
            answers := s.sink.answers.drop (bytes.length + 1) }
        responses := s.responses ++ [0x0000#16] }) ∧
  (∀ e : EncUnit, 1 ≤ e.cacheSize → shiftsBytes 5 e = bigEndian (e.cacheSize + 4) (heldNumber e))

/-- R134, R139, R140 (c), R60: with a count of at least 1 and room for four more, each of the five ShiftLows of ENC.FLUSH passes
the counter checks, whatever low and cache hold; so a READY ENC whose sink accepts cacheSize + 5 requests completes ENC.FLUSH: the
number held back is written and released, phase FLUSHED, the response 0x0000. (With less room it depends on low; ShiftsFit is
then the exact condition.) -/
def Obligations.FlushFitsWithRoomForFour : Prop :=
  ∀ s : State, 1 ≤ s.enc.cacheSize → s.enc.cacheSize + 4 < 2 ^ s.config.wCS →
    let bytes := bigEndian (s.enc.cacheSize + 4) (heldNumber s.enc)
    ShiftsFit s.config 5 s.enc ∧
    (s.enc.phase = .ready → SinkAcceptsNext (s.enc.cacheSize + 5) s →
      exec .encFlush s = .next
        { s with
          enc := { range := s.enc.range, low := 0#33, cache := 0x00#8, cacheSize := 1, phase := .flushed }
          sink :=
            { written := s.sink.written ++ bytes
              released := (s.sink.written ++ bytes).length
              answers := s.sink.answers.drop (s.enc.cacheSize + 5) }
          responses := s.responses ++ [0x0000#16] })

/-- R144, R233, R237: a sink that accepts `k` bytes of a flush path and then answers ERR: the `k` bytes stay, the command ends with
ERR_IO and, for ENC.BIT, its updated P, ENC is FAILED, and nothing else changes. -/
def Obligations.SinkFailureEndsTheBit : Prop :=
  ∀ (c : CodedBit) (s : State) (k : Nat) (rest : List SinkAnswer),
    c.Legal → s.enc.phase = .ready → NeedsShift (c.narrow s.enc).range → ¬ Defers (c.narrow s.enc) →
    k < s.enc.cacheSize → s.sink.answers = List.replicate k SinkAnswer.ok ++ SinkAnswer.err :: rest →
    ∃ t, exec c.encCommand s = .next t ∧ t.enc.phase = .failed ∧
      t.sink = { s.sink with written := s.sink.written ++ (shiftBytes (c.narrow s.enc)).take k, answers := rest } ∧
      t.responses = s.responses ++ [response 3 0 c.responseP] ∧
      t.dec = s.dec ∧ t.source = s.source ∧ t.moves = s.moves ∧ t.config = s.config

/-- R144, R233, R139: ENC.FLUSH whose first `m` ShiftLows pass the counter checks, with a sink that accepts `k` bytes and then
answers ERR to the next of their bytes or, after all five, to the flush: the `k` bytes stay, none is released, ERR_IO, ENC is
FAILED, not FLUSHED. -/
def Obligations.SinkFailureEndsTheFlush : Prop :=
  ∀ (s : State) (m k : Nat) (rest : List SinkAnswer),
    s.enc.phase = .ready → m ≤ 5 → ShiftsFit s.config m s.enc →
    (k < (shiftsBytes m s.enc).length ∨ (m = 5 ∧ k = (shiftsBytes 5 s.enc).length)) →
    s.sink.answers = List.replicate k SinkAnswer.ok ++ SinkAnswer.err :: rest →
    ∃ t, exec .encFlush s = .next t ∧ t.enc.phase = .failed ∧
      t.sink = { s.sink with written := s.sink.written ++ (shiftsBytes m s.enc).take k, answers := rest } ∧
      t.responses = s.responses ++ [0x0003#16] ∧
      t.dec = s.dec ∧ t.source = s.source ∧ t.moves = s.moves ∧ t.config = s.config

/-- R134, R236: a flush path with cacheSize = 0, or a count at its maximum. In ENC.DIRECT and ENC.BIT the command ends with
ERR_INVARIANT before any byte is written. In ENC.FLUSH, at whichever of the five ShiftLows the check fails, it ends with
ERR_INVARIANT; the bytes of the ShiftLows before it stay, none of its own is written and none is released. ENC is FAILED and
nothing else changes. -/
def Obligations.CountChecksEndTheCommand : Prop :=
  (∀ (c : CodedBit) (s : State),
    s.config.wf = true → c.Legal → s.enc.phase = .ready → NeedsShift (c.narrow s.enc).range →
    ¬ CountFits s.config (c.narrow s.enc) →
    ∃ t, exec c.encCommand s = .next t ∧ t.enc.phase = .failed ∧
      t.responses = s.responses ++ [response 6 0 c.responseP] ∧
      t.sink = s.sink ∧ t.dec = s.dec ∧ t.source = s.source ∧ t.moves = s.moves ∧ t.config = s.config) ∧
  (∀ (s : State) (m : Nat), s.config.wf = true → s.enc.phase = .ready → m < 5 → ShiftsFit s.config m s.enc →
    ¬ CountFits s.config (afterShifts m s.enc) → SinkAcceptsNext (shiftsBytes m s.enc).length s →
    ∃ t, exec .encFlush s = .next t ∧ t.enc.phase = .failed ∧ t.responses = s.responses ++ [0x0006#16] ∧
      t.sink =
        { s.sink with
          written := s.sink.written ++ shiftsBytes m s.enc
          answers := s.sink.answers.drop (shiftsBytes m s.enc).length } ∧
      t.dec = s.dec ∧ t.source = s.source ∧ t.moves = s.moves ∧ t.config = s.config)

/-- R140 (a): bytes written plus bytes held back grow by one for each ShiftLow, whatever the sink answers, while no fatal status is
raised. -/
def Obligations.BytesCountShifts : Prop :=
  (∀ (c : CodedBit) (s t : State), c.Legal → s.enc.phase = .ready → exec c.encCommand s = .next t → t.enc.phase = .ready →
    t.sink.written.length + t.enc.cacheSize =
      s.sink.written.length + s.enc.cacheSize + (if NeedsShift (c.narrow s.enc).range then 1 else 0)) ∧
  (∀ s t : State, s.enc.phase = .ready → exec .encFlush s = .next t → t.enc.phase = .flushed →
    t.sink.written.length + t.enc.cacheSize = s.sink.written.length + s.enc.cacheSize + 5)

/-- R34, R141, R24: the encoder's invariant holds at reset, and every range is wide there (R35). -/
def Obligations.EncoderInvariantAtReset : Prop :=
  EncInv State.reset ∧ RangesWide State.reset

/-- R34, R141: every step keeps the encoder's invariant, for any host and any P values. -/
def Obligations.StepKeepsTheEncoderInvariant : Prop :=
  ∀ s t : State, EncInv s → step s = .next t → EncInv t

/-- R35: a step whose P operand, if it has one, lies in [8, 2040] keeps each READY unit's range at 2^24 or more. -/
def Obligations.StepKeepsRangesWide : Prop :=
  ∀ s t : State, RangesWide s →
    (∀ w rest i, s.moves = .command w :: rest → decode w = .ok i → CellInBand i) →
    step s = .next t → RangesWide t

/-- R63, R140 (b), R142: a session's stream begins with 0x00 and has one byte for each normalization shift and five more. -/
def Obligations.SessionStreamBeginsWithZero : Prop :=
  ∀ (cs : List CodedBit) (s : State), AtEncStart s → AllOk s (encSession cs s) →
    (bytesSince s (encSession cs s)).head? = some 0x00#8 ∧
    (bytesSince s (encSession cs s)).length = shiftCount cs s + 5

/-! ### The decoder -/

/-- R181, R58: DEC.INIT on a legal header, in every phase: five bytes taken, DEC.code their big-endian value, phase READY. -/
def Obligations.DecInitReadsTheHeader : Prop :=
  ∀ (s : State) (bs : List Byte) (rest : List SourceAnswer),
    bs.length = 4 → bigEndianValue bs ≠ 0xFFFFFFFF →
    s.source.answers = (0x00#8 :: bs).map .byte ++ rest →
    exec .decInit s = .next
      { s with
        dec := { range := 0xFFFFFFFF#32, code := BitVec.ofNat 32 (bigEndianValue bs), phase := .ready }
        source := { taken := s.source.taken + 5, answers := rest }
        responses := s.responses ++ [0x0000#16] }

/-- R235: the two malformed headers, that DEC.INIT answers ERR_MALFORMED for no other header, and that no other command does. -/
def Obligations.MalformedHeaderIsRefused : Prop :=
  (∀ (s : State) (v : Byte) (rest : List SourceAnswer), v ≠ 0x00#8 → s.source.answers = .byte v :: rest →
    ∃ t, exec .decInit s = .next t ∧ t.dec.phase = .failed ∧ t.responses = s.responses ++ [0x0005#16] ∧
      t.source = { taken := s.source.taken + 1, answers := rest } ∧
      t.enc = s.enc ∧ t.sink = s.sink ∧ t.moves = s.moves ∧ t.config = s.config) ∧
  (∀ (s : State) (rest : List SourceAnswer),
    s.source.answers = [0x00#8, 0xFF#8, 0xFF#8, 0xFF#8, 0xFF#8].map .byte ++ rest →
    ∃ t, exec .decInit s = .next t ∧ t.dec.phase = .failed ∧ t.responses = s.responses ++ [0x0005#16] ∧
      t.source = { taken := s.source.taken + 5, answers := rest } ∧
      t.enc = s.enc ∧ t.sink = s.sink ∧ t.moves = s.moves ∧ t.config = s.config) ∧
  (∀ (s t : State) (r : ResponseWord), exec .decInit s = .next t → t.responses = s.responses ++ [r] → r.toNat % 8 = 5 →
    (∃ v rest, v ≠ 0x00#8 ∧ s.source.answers = .byte v :: rest) ∨
    (∃ rest, s.source.answers = [0x00#8, 0xFF#8, 0xFF#8, 0xFF#8, 0xFF#8].map .byte ++ rest)) ∧
  (∀ (i : Instr) (s t : State) (r : ResponseWord), i ≠ .decInit → exec i s = .next t → t.responses = s.responses ++ [r] →
    r.toNat % 8 ≠ 5)

/-- R182: DEC.DIRECT completes when DEC is READY: at once, or with the byte its normalization reads. -/
def Obligations.DecDirectDecodesTheBit : Prop :=
  ∀ s : State, s.dec.phase = .ready →
    let x := directDecoded s.dec
    (¬ NeedsShift x.2.range →
      exec .decDirect s = .next { s with dec := x.2, responses := s.responses ++ [response 0 x.1.toNat 0] }) ∧
    (∀ v rest, NeedsShift x.2.range → s.source.answers = .byte v :: rest →
      exec .decDirect s = .next
        { s with
          dec := readIn x.2 v
          source := { taken := s.source.taken + 1, answers := rest }
          responses := s.responses ++ [response 0 x.1.toNat 0] })

/-- R183: DEC.BIT completes when p is legal and DEC is READY: at once, or with the byte its normalization reads. -/
def Obligations.DecBitDecodesTheBit : Prop :=
  ∀ (p : Prob) (s : State), p ≠ 0#11 → s.dec.phase = .ready →
    let x := adaptiveDecoded p s.dec
    (¬ NeedsShift x.2.range →
      exec (.decBit p) s = .next
        { s with dec := x.2, responses := s.responses ++ [response 0 x.1.toNat (newCell x.1 p.toNat)] }) ∧
    (∀ v rest, NeedsShift x.2.range → s.source.answers = .byte v :: rest →
      exec (.decBit p) s = .next
        { s with
          dec := readIn x.2 v
          source := { taken := s.source.taken + 1, answers := rest }
          responses := s.responses ++ [response 0 x.1.toNat (newCell x.1 p.toNat)] })

/-- R184: DEC.ATEND answers whether DEC.code is 0, changes nothing else and reads no byte; before READY it is refused. -/
def Obligations.DecAtendAnswersCodeIsZero : Prop :=
  ∀ s : State,
    (s.dec.phase = .ready →
      exec .decAtend s = .next
        { s with responses := s.responses ++ [if s.dec.code.toNat = 0 then 0x0008#16 else 0x0000#16] }) ∧
    (s.dec.phase ≠ .ready → exec .decAtend s = .next { s with responses := s.responses ++ [0x0002#16] })

/-- R233, R234, R237: a source that answers EOD or ERR ends DEC.INIT, DEC.DIRECT or DEC.BIT with ERR_EOD or ERR_IO; the bytes taken
before stay taken, DEC is FAILED, DEC.BIT's response holds its updated P, and nothing else changes. -/
def Obligations.SourceFailureEndsTheCommand : Prop :=
  ∀ (s : State) (a : SourceAnswer) (status : Nat) (rest : List SourceAnswer),
    (a, status) ∈ [(SourceAnswer.eod, 4), (SourceAnswer.err, 3)] →
    (∀ vs : List Byte, vs.length < 5 → (∀ v ∈ vs.head?, v = 0x00#8) → s.source.answers = vs.map .byte ++ a :: rest →
      ∃ t, exec .decInit s = .next t ∧ t.dec.phase = .failed ∧ t.responses = s.responses ++ [response status 0 0] ∧
        t.source = { taken := s.source.taken + vs.length, answers := rest } ∧
        t.enc = s.enc ∧ t.sink = s.sink ∧ t.moves = s.moves ∧ t.config = s.config) ∧
    (s.dec.phase = .ready → NeedsShift (directDecoded s.dec).2.range → s.source.answers = a :: rest →
      ∃ t, exec .decDirect s = .next t ∧ t.dec.phase = .failed ∧ t.responses = s.responses ++ [response status 0 0] ∧
        t.source = { s.source with answers := rest } ∧
        t.enc = s.enc ∧ t.sink = s.sink ∧ t.moves = s.moves ∧ t.config = s.config) ∧
    (∀ p : Prob, p ≠ 0#11 → s.dec.phase = .ready → NeedsShift (adaptiveDecoded p s.dec).2.range →
      s.source.answers = a :: rest →
      ∃ t, exec (.decBit p) s = .next t ∧ t.dec.phase = .failed ∧
        t.responses = s.responses ++ [response status 0 (newCell (adaptiveDecoded p s.dec).1 p.toNat)] ∧
        t.source = { s.source with answers := rest } ∧
        t.enc = s.enc ∧ t.sink = s.sink ∧ t.moves = s.moves ∧ t.config = s.config)

/-- R36, R182, R183: DEC.BIT with a range of 2^11 or more, and DEC.DIRECT with an even range, keep `code < range`. -/
def Obligations.DecodingKeepsCodeBelowRange : Prop :=
  (∀ (p : Prob) (s t : State), p ≠ 0#11 → s.dec.phase = .ready → 2 ^ 11 ≤ s.dec.range.toNat → s.dec.code < s.dec.range →
    exec (.decBit p) s = .next t → t.dec.phase = .ready → t.dec.code < t.dec.range) ∧
  (∀ s t : State, s.dec.phase = .ready → s.dec.range.toNat % 2 = 0 → s.dec.code < s.dec.range →
    exec .decDirect s = .next t → t.dec.phase = .ready → t.dec.code < t.dec.range)

/-! ### Errors, phases and units -/

/-- R232: a legal command whose unit's phase does not accept it is answered with ERR_SEQ and changes nothing; one whose phase
accepts it is not. -/
def Obligations.PhaseDecidesErrSeq : Prop :=
  ∀ (i : Instr) (s : State), i.wf = true →
    (¬ AcceptedIn i s → exec i s = .next { s with responses := s.responses ++ [0x0002#16] }) ∧
    (AcceptedIn i s → ∃ t r, exec i s = .next t ∧ t.responses = s.responses ++ [r] ∧ r.toNat % 8 ≠ 2)

/-- R237, R238: what a command's STATUS says of the machine: ERR_ILLEGAL and ERR_SEQ change nothing; a fatal status leaves the unit
that raised it FAILED and the other unit with its stream untouched; OK makes no unit FAILED. -/
def Obligations.StatusSaysWhatBecameOfTheUnit : Prop :=
  ∀ (i : Instr) (s t : State) (r : ResponseWord), exec i s = .next t → t.responses = s.responses ++ [r] →
    (r.toNat % 8 = 1 ∨ r.toNat % 8 = 2 → t = { s with responses := t.responses }) ∧
    (3 ≤ r.toNat % 8 →
      (IsEncCommand i ∧ s.enc.phase = .ready ∧ t.enc.phase = .failed ∧ t.dec = s.dec ∧ t.source = s.source) ∨
      (IsDecCommand i ∧ AcceptedIn i s ∧ t.dec.phase = .failed ∧ t.enc = s.enc ∧ t.sink = s.sink)) ∧
    (r.toNat % 8 = 0 →
      (t.enc.phase = .failed → s.enc.phase = .failed) ∧ (t.dec.phase = .failed → s.dec.phase = .failed))

/-- R25, R28, R239: the only ways a step changes a unit's phase. -/
def Obligations.OnlyTheseStepsChangeAPhase : Prop :=
  ∀ s t : State, step s = .next t →
    (t.enc.phase ≠ s.enc.phase →
      (t.enc.phase = .ready ∧ s.moves.head? = some .reset) ∨
      ∃ w rest i r, s.moves = .command w :: rest ∧ decode w = .ok i ∧ t.responses = s.responses ++ [r] ∧
        ((i = .encInit ∧ t.enc.phase = .ready ∧ r = 0x0000#16) ∨
         (i = .encFlush ∧ s.enc.phase = .ready ∧ t.enc.phase = .flushed ∧ r = 0x0000#16) ∨
         (IsEncCommand i ∧ s.enc.phase = .ready ∧ t.enc.phase = .failed ∧ 3 ≤ r.toNat % 8))) ∧
    (t.dec.phase ≠ s.dec.phase →
      (t.dec.phase = .uninit ∧ s.moves.head? = some .reset) ∨
      ∃ w rest i r, s.moves = .command w :: rest ∧ decode w = .ok i ∧ t.responses = s.responses ++ [r] ∧
        ((i = .decInit ∧ t.dec.phase = .ready ∧ r = 0x0000#16) ∨
         (i = .decInit ∧ t.dec.phase = .failed ∧ 3 ≤ r.toNat % 8) ∨
         (IsDecCommand i ∧ s.dec.phase = .ready ∧ t.dec.phase = .failed ∧ 3 ≤ r.toNat % 8)))

/-- R20, R29, R54: which state a command leaves alone: an ENC command DEC and the source, a DEC command ENC and the sink, a cell
command all of them; no command touches the command port's coming moves or W_CS. -/
def Obligations.CommandsLeaveTheOtherUnitAlone : Prop :=
  ∀ (i : Instr) (s t : State), exec i s = .next t →
    (IsEncCommand i → t.dec = s.dec ∧ t.source = s.source ∧ t.freeDecCount = s.freeDecCount) ∧
    (IsDecCommand i → t.enc = s.enc ∧ t.sink = s.sink ∧ t.freeEncCount = s.freeEncCount) ∧
    (¬ IsEncCommand i → ¬ IsDecCommand i → t = { s with responses := t.responses }) ∧
    t.moves = s.moves ∧ t.config = s.config

/-- R20: "Neither unit reads or writes the other's registers": two states that agree on one unit and its stream answer that unit's
command alike and still agree, whatever the other unit holds. -/
def Obligations.UnitsCannotSeeEachOther : Prop :=
  ∀ (i : Instr) (s s' t : State), exec i s = .next t →
    (IsEncCommand i → s'.enc = s.enc → s'.sink = s.sink → s'.config = s.config → s'.freeEncCount = s.freeEncCount →
      ∃ t', exec i s' = .next t' ∧ t'.enc = t.enc ∧ t'.sink = t.sink ∧ t'.freeEncCount = t.freeEncCount ∧
        responsesSince s' t' = responsesSince s t ∧ t'.dec = s'.dec ∧ t'.source = s'.source) ∧
    (IsDecCommand i → s'.dec = s.dec → s'.source = s.source → s'.freeDecCount = s.freeDecCount →
      ∃ t', exec i s' = .next t' ∧ t'.dec = t.dec ∧ t'.source = t.source ∧ t'.freeDecCount = t.freeDecCount ∧
        responsesSince s' t' = responsesSince s t ∧ t'.enc = s'.enc ∧ t'.sink = s'.sink)

/-- R37, R239: no command reads a FAILED unit's registers, and the unit's INIT overwrites every one of them. -/
def Obligations.FailedRegistersAreNeverRead : Prop :=
  (∀ (i : Instr) (s t : State) (e : EncUnit), s.enc.phase = .failed → e.phase = .failed → exec i s = .next t →
    (i = .encInit → exec i { s with enc := e } = .next t) ∧
    (i ≠ .encInit → exec i { s with enc := e } = .next { t with enc := e })) ∧
  (∀ (i : Instr) (s t : State) (d : DecUnit), s.dec.phase = .failed → d.phase = .failed → exec i s = .next t →
    (i = .decInit → exec i { s with dec := d } = .next t) ∧
    (i ≠ .decInit → exec i { s with dec := d } = .next { t with dec := d }))

/-- R50, R51, R54, R59: both streams and the responses only move forward, answers are used in order, and only the commands the
rules name move bytes or release them. -/
def Obligations.StreamsOnlyMoveForward : Prop :=
  ∀ (i : Instr) (s t : State), exec i s = .next t →
    s.sink.written <+: t.sink.written ∧ s.source.taken ≤ t.source.taken ∧ s.responses <+: t.responses ∧
    t.sink.answers <:+ s.sink.answers ∧ t.source.answers <:+ s.source.answers ∧
    (t.sink.written ≠ s.sink.written → (∃ c : CodedBit, i = c.encCommand) ∨ i = .encFlush) ∧
    (t.sink.released ≠ s.sink.released → i = .encFlush ∧ t.sink.released = t.sink.written.length) ∧
    (t.source.taken ≠ s.source.taken → i = .decInit ∨ (∃ c : CodedBit, i = c.decCommand))

/-! ### Round trip -/

/-- R185, the mirror property, for sessions given with the P value of each adaptive command (a caller that stores every returned P
supplies these by R275): the decoder returns every bit, every P and every range of the encoder, and reads its stream exactly. -/
def Obligations.DecoderMirrorsEncoder : Prop :=
  ∀ (cs : List CodedBit) (s d : State) (rest : List SourceAnswer),
    AtEncStart s → AllOk s (encSession cs s) →
    (∀ k b p, cs[k]? = some (.adaptive b p) → 2 ^ 11 ≤ (encPrefix cs k s).enc.range.toNat) →
    d.source.answers = (bytesSince s (encSession cs s)).map .byte ++ rest →
    responsesSince s (encSession cs s) = cs.map (fun c => response 0 0 c.responseP) ++ [0x0000#16] ∧
    responsesSince d (decPrefix cs cs.length d) = 0x0000#16 :: cs.map (fun c => response 0 c.bit.toNat c.responseP) ∧
    (decPrefix cs cs.length d).source =
      { taken := d.source.taken + (bytesSince s (encSession cs s)).length, answers := rest } ∧
    ∀ k ≤ cs.length, (decPrefix cs k d).dec.range = (encPrefix cs k s).enc.range
end

