-- ==== Sys2Proof/Laws/State.lean ====
section
/-! SUPPORT. One lemma per field per named update of State, so that no proof unfolds a record update. -/

namespace Sys2Proof.Machine

/-! ### setEnc -/

@[simp] theorem setEnc_config (s : State) (e : EncUnit) : (s.setEnc e).config = s.config := rfl
@[simp] theorem setEnc_enc (s : State) (e : EncUnit) : (s.setEnc e).enc = e := rfl
@[simp] theorem setEnc_dec (s : State) (e : EncUnit) : (s.setEnc e).dec = s.dec := rfl
@[simp] theorem setEnc_sink (s : State) (e : EncUnit) : (s.setEnc e).sink = s.sink := rfl
@[simp] theorem setEnc_source (s : State) (e : EncUnit) : (s.setEnc e).source = s.source := rfl
@[simp] theorem setEnc_moves (s : State) (e : EncUnit) : (s.setEnc e).moves = s.moves := rfl
@[simp] theorem setEnc_responses (s : State) (e : EncUnit) : (s.setEnc e).responses = s.responses := rfl
@[simp] theorem setEnc_freeEncCount (s : State) (e : EncUnit) : (s.setEnc e).freeEncCount = s.freeEncCount := rfl
@[simp] theorem setEnc_freeDecCount (s : State) (e : EncUnit) : (s.setEnc e).freeDecCount = s.freeDecCount := rfl

/-! ### setDec -/

@[simp] theorem setDec_config (s : State) (d : DecUnit) : (s.setDec d).config = s.config := rfl
@[simp] theorem setDec_enc (s : State) (d : DecUnit) : (s.setDec d).enc = s.enc := rfl
@[simp] theorem setDec_dec (s : State) (d : DecUnit) : (s.setDec d).dec = d := rfl
@[simp] theorem setDec_sink (s : State) (d : DecUnit) : (s.setDec d).sink = s.sink := rfl
@[simp] theorem setDec_source (s : State) (d : DecUnit) : (s.setDec d).source = s.source := rfl
@[simp] theorem setDec_moves (s : State) (d : DecUnit) : (s.setDec d).moves = s.moves := rfl
@[simp] theorem setDec_responses (s : State) (d : DecUnit) : (s.setDec d).responses = s.responses := rfl
@[simp] theorem setDec_freeEncCount (s : State) (d : DecUnit) : (s.setDec d).freeEncCount = s.freeEncCount := rfl
@[simp] theorem setDec_freeDecCount (s : State) (d : DecUnit) : (s.setDec d).freeDecCount = s.freeDecCount := rfl

/-! ### setSink -/

@[simp] theorem setSink_config (s : State) (k : SinkPort) : (s.setSink k).config = s.config := rfl
@[simp] theorem setSink_enc (s : State) (k : SinkPort) : (s.setSink k).enc = s.enc := rfl
@[simp] theorem setSink_dec (s : State) (k : SinkPort) : (s.setSink k).dec = s.dec := rfl
@[simp] theorem setSink_sink (s : State) (k : SinkPort) : (s.setSink k).sink = k := rfl
@[simp] theorem setSink_source (s : State) (k : SinkPort) : (s.setSink k).source = s.source := rfl
@[simp] theorem setSink_moves (s : State) (k : SinkPort) : (s.setSink k).moves = s.moves := rfl
@[simp] theorem setSink_responses (s : State) (k : SinkPort) : (s.setSink k).responses = s.responses := rfl
@[simp] theorem setSink_freeEncCount (s : State) (k : SinkPort) : (s.setSink k).freeEncCount = s.freeEncCount := rfl
@[simp] theorem setSink_freeDecCount (s : State) (k : SinkPort) : (s.setSink k).freeDecCount = s.freeDecCount := rfl

/-! ### setSource -/

@[simp] theorem setSource_config (s : State) (r : SourcePort) : (s.setSource r).config = s.config := rfl
@[simp] theorem setSource_enc (s : State) (r : SourcePort) : (s.setSource r).enc = s.enc := rfl
@[simp] theorem setSource_dec (s : State) (r : SourcePort) : (s.setSource r).dec = s.dec := rfl
@[simp] theorem setSource_sink (s : State) (r : SourcePort) : (s.setSource r).sink = s.sink := rfl
@[simp] theorem setSource_source (s : State) (r : SourcePort) : (s.setSource r).source = r := rfl
@[simp] theorem setSource_moves (s : State) (r : SourcePort) : (s.setSource r).moves = s.moves := rfl
@[simp] theorem setSource_responses (s : State) (r : SourcePort) : (s.setSource r).responses = s.responses := rfl
@[simp] theorem setSource_freeEncCount (s : State) (r : SourcePort) : (s.setSource r).freeEncCount = s.freeEncCount := rfl
@[simp] theorem setSource_freeDecCount (s : State) (r : SourcePort) : (s.setSource r).freeDecCount = s.freeDecCount := rfl

/-! ### setMoves -/

@[simp] theorem setMoves_config (s : State) (m : List HostMove) : (s.setMoves m).config = s.config := rfl
@[simp] theorem setMoves_enc (s : State) (m : List HostMove) : (s.setMoves m).enc = s.enc := rfl
@[simp] theorem setMoves_dec (s : State) (m : List HostMove) : (s.setMoves m).dec = s.dec := rfl
@[simp] theorem setMoves_sink (s : State) (m : List HostMove) : (s.setMoves m).sink = s.sink := rfl
@[simp] theorem setMoves_source (s : State) (m : List HostMove) : (s.setMoves m).source = s.source := rfl
@[simp] theorem setMoves_moves (s : State) (m : List HostMove) : (s.setMoves m).moves = m := rfl
@[simp] theorem setMoves_responses (s : State) (m : List HostMove) : (s.setMoves m).responses = s.responses := rfl
@[simp] theorem setMoves_freeEncCount (s : State) (m : List HostMove) : (s.setMoves m).freeEncCount = s.freeEncCount := rfl
@[simp] theorem setMoves_freeDecCount (s : State) (m : List HostMove) : (s.setMoves m).freeDecCount = s.freeDecCount := rfl

/-! ### setFreeEncCount -/

@[simp] theorem setFreeEncCount_config (s : State) (n : Nat) : (s.setFreeEncCount n).config = s.config := rfl
@[simp] theorem setFreeEncCount_enc (s : State) (n : Nat) : (s.setFreeEncCount n).enc = s.enc := rfl
@[simp] theorem setFreeEncCount_dec (s : State) (n : Nat) : (s.setFreeEncCount n).dec = s.dec := rfl
@[simp] theorem setFreeEncCount_sink (s : State) (n : Nat) : (s.setFreeEncCount n).sink = s.sink := rfl
@[simp] theorem setFreeEncCount_source (s : State) (n : Nat) : (s.setFreeEncCount n).source = s.source := rfl
@[simp] theorem setFreeEncCount_moves (s : State) (n : Nat) : (s.setFreeEncCount n).moves = s.moves := rfl
@[simp] theorem setFreeEncCount_responses (s : State) (n : Nat) : (s.setFreeEncCount n).responses = s.responses := rfl
@[simp] theorem setFreeEncCount_freeEncCount (s : State) (n : Nat) : (s.setFreeEncCount n).freeEncCount = n := rfl
@[simp] theorem setFreeEncCount_freeDecCount (s : State) (n : Nat) : (s.setFreeEncCount n).freeDecCount = s.freeDecCount := rfl

/-! ### setFreeDecCount -/

@[simp] theorem setFreeDecCount_config (s : State) (n : Nat) : (s.setFreeDecCount n).config = s.config := rfl
@[simp] theorem setFreeDecCount_enc (s : State) (n : Nat) : (s.setFreeDecCount n).enc = s.enc := rfl
@[simp] theorem setFreeDecCount_dec (s : State) (n : Nat) : (s.setFreeDecCount n).dec = s.dec := rfl
@[simp] theorem setFreeDecCount_sink (s : State) (n : Nat) : (s.setFreeDecCount n).sink = s.sink := rfl
@[simp] theorem setFreeDecCount_source (s : State) (n : Nat) : (s.setFreeDecCount n).source = s.source := rfl
@[simp] theorem setFreeDecCount_moves (s : State) (n : Nat) : (s.setFreeDecCount n).moves = s.moves := rfl
@[simp] theorem setFreeDecCount_responses (s : State) (n : Nat) : (s.setFreeDecCount n).responses = s.responses := rfl
@[simp] theorem setFreeDecCount_freeEncCount (s : State) (n : Nat) : (s.setFreeDecCount n).freeEncCount = s.freeEncCount := rfl
@[simp] theorem setFreeDecCount_freeDecCount (s : State) (n : Nat) : (s.setFreeDecCount n).freeDecCount = n := rfl

/-! ### respond -/

@[simp] theorem respond_config (s : State) (st : Status) (bit : Bool) (p : Prob) :
    (s.respond st bit p).config = s.config := rfl
@[simp] theorem respond_enc (s : State) (st : Status) (bit : Bool) (p : Prob) :
    (s.respond st bit p).enc = s.enc := rfl
@[simp] theorem respond_dec (s : State) (st : Status) (bit : Bool) (p : Prob) :
    (s.respond st bit p).dec = s.dec := rfl
@[simp] theorem respond_sink (s : State) (st : Status) (bit : Bool) (p : Prob) :
    (s.respond st bit p).sink = s.sink := rfl
@[simp] theorem respond_source (s : State) (st : Status) (bit : Bool) (p : Prob) :
    (s.respond st bit p).source = s.source := rfl
@[simp] theorem respond_moves (s : State) (st : Status) (bit : Bool) (p : Prob) :
    (s.respond st bit p).moves = s.moves := rfl
@[simp] theorem respond_responses (s : State) (st : Status) (bit : Bool) (p : Prob) :
    (s.respond st bit p).responses = s.responses ++ [responseWord st bit p] := rfl
@[simp] theorem respond_freeEncCount (s : State) (st : Status) (bit : Bool) (p : Prob) :
    (s.respond st bit p).freeEncCount = s.freeEncCount := rfl
@[simp] theorem respond_freeDecCount (s : State) (st : Status) (bit : Bool) (p : Prob) :
    (s.respond st bit p).freeDecCount = s.freeDecCount := rfl

/-! ### An update written twice, or with what stands there -/

@[simp] theorem setEnc_setEnc (s : State) (x y : EncUnit) : (s.setEnc x).setEnc y = s.setEnc y := rfl
@[simp] theorem setEnc_self (s : State) : s.setEnc s.enc = s := rfl
@[simp] theorem setDec_setDec (s : State) (x y : DecUnit) : (s.setDec x).setDec y = s.setDec y := rfl
@[simp] theorem setDec_self (s : State) : s.setDec s.dec = s := rfl
@[simp] theorem setSink_setSink (s : State) (x y : SinkPort) : (s.setSink x).setSink y = s.setSink y := rfl
@[simp] theorem setSink_self (s : State) : s.setSink s.sink = s := rfl
@[simp] theorem setSource_setSource (s : State) (x y : SourcePort) : (s.setSource x).setSource y = s.setSource y := rfl
@[simp] theorem setSource_self (s : State) : s.setSource s.source = s := rfl
@[simp] theorem setMoves_setMoves (s : State) (x y : List HostMove) : (s.setMoves x).setMoves y = s.setMoves y := rfl
@[simp] theorem setMoves_self (s : State) : s.setMoves s.moves = s := rfl
@[simp] theorem setFreeEncCount_setFreeEncCount (s : State) (x y : Nat) : (s.setFreeEncCount x).setFreeEncCount y = s.setFreeEncCount y := rfl
@[simp] theorem setFreeEncCount_self (s : State) : s.setFreeEncCount s.freeEncCount = s := rfl
@[simp] theorem setFreeDecCount_setFreeDecCount (s : State) (x y : Nat) : (s.setFreeDecCount x).setFreeDecCount y = s.setFreeDecCount y := rfl
@[simp] theorem setFreeDecCount_self (s : State) : s.setFreeDecCount s.freeDecCount = s := rfl

end Sys2Proof.Machine
end

