-- ==== Sys2Proof/Laws/Ops.lean ====
section
/-! SUPPORT. One lemma per shared operation, saying once everything it can do; later proofs cite these and do not unfold. -/

namespace Sys2Proof.Machine

/-! ### Sequencing and framing -/

@[simp] theorem andThen_go {α β : Type} (a : α) (s : State) (k : α → State → Flow β) : andThen (.go a s) k = k a s := rfl

@[simp] theorem andThen_raise {α β : Type} (f : Fatal) (s : State) (k : α → State → Flow β) :
    andThen (.raise f s) k = .raise f s := rfl

@[simp] theorem endCommand_go (u : CoderUnit) (q : Prob) (bit : Bool) (p : Prob) (s : State) :
    endCommand u q (.go (bit, p) s) = .next (s.respond .ok bit p) := rfl

@[simp] theorem endCommand_raise (u : CoderUnit) (q : Prob) (f : Fatal) (s : State) :
    endCommand u q (.raise f s) = .next (takeFatal u f q s) := rfl

theorem endCommand_next (u : CoderUnit) (q : Prob) (x : Flow (Bool × Prob)) : ∃ t, endCommand u q x = .next t := by
  cases x with
  | go a s => exact ⟨_, rfl⟩
  | raise f s => exact ⟨_, rfl⟩

theorem whenEncReady_ready {s : State} (h : s.enc.phase = .ready) (k : Host.Outcome State Fault Refusal) :
    whenEncReady s k = k := if_pos h

theorem whenEncReady_not_ready {s : State} (h : s.enc.phase ≠ .ready) (k : Host.Outcome State Fault Refusal) :
    whenEncReady s k = .next (refuseSeq s) := if_neg h

theorem whenDecReady_ready {s : State} (h : s.dec.phase = .ready) (k : Host.Outcome State Fault Refusal) :
    whenDecReady s k = k := if_pos h

theorem whenDecReady_not_ready {s : State} (h : s.dec.phase ≠ .ready) (k : Host.Outcome State Fault Refusal) :
    whenDecReady s k = .next (refuseSeq s) := if_neg h

theorem whenCellLegal_legal {p : Prob} (h : p ≠ 0#11) (s : State) (k : Host.Outcome State Fault Refusal) :
    whenCellLegal p s k = k := if_neg h

@[simp] theorem whenCellLegal_zero (s : State) (k : Host.Outcome State Fault Refusal) :
    whenCellLegal 0#11 s k = .next (refuseIllegal s) := rfl

/-! ### The sink -/

/-- The answer taken is the head of the list, or OK past its end, and only the answers change. -/
theorem takeSinkAnswer_eq (s : State) :
    takeSinkAnswer s = (s.sink.answers.head?.getD .ok, s.setSink { s.sink with answers := s.sink.answers.tail }) := by
  unfold takeSinkAnswer
  split <;> rename_i h <;> simp [h]
  rw [← h]; rfl

theorem sinkWrite_cases (b : Byte) (s : State) :
    (s.sink.answers.head? ≠ some .err ∧ sinkWrite b s = .go () (s.setSink
      { s.sink with written := s.sink.written ++ [b], answers := s.sink.answers.tail })) ∨
    (s.sink.answers.head? = some .err ∧
      sinkWrite b s = .raise .io (s.setSink { s.sink with answers := s.sink.answers.tail })) := by
  unfold sinkWrite
  rw [takeSinkAnswer_eq]
  rcases s.sink.answers with _ | ⟨_ | _, rest⟩ <;> simp

/-- `n` writes of one byte: all accepted, or `k` of them and then an ERR. -/
theorem sinkWriteRepeat_cases (b : Byte) (n : Nat) (s : State) :
    ((∀ a ∈ s.sink.answers.take n, a = .ok) ∧ sinkWriteRepeat b n s = .go () (s.setSink
      { s.sink with written := s.sink.written ++ List.replicate n b, answers := s.sink.answers.drop n })) ∨
    (∃ k, k < n ∧ s.sink.answers[k]? = some .err ∧ (∀ a ∈ s.sink.answers.take k, a = .ok) ∧
      sinkWriteRepeat b n s = .raise .io (s.setSink
        { s.sink with written := s.sink.written ++ List.replicate k b, answers := s.sink.answers.drop (k + 1) })) := by
  induction n generalizing s with
  | zero => exact .inl ⟨by simp, by simp only [sinkWriteRepeat, List.replicate_zero, List.append_nil, List.drop_zero]; rfl⟩
  | succ n ih =>
    obtain ⟨h, e⟩ | ⟨h, e⟩ := sinkWrite_cases b s
    · have hd : ∀ k, (∀ a ∈ s.sink.answers.tail.take k, a = SinkAnswer.ok) →
          ∀ a ∈ s.sink.answers.take (k + 1), a = SinkAnswer.ok := by
        intro k hk a ha
        rcases hs : s.sink.answers with _ | ⟨x, xs⟩
        · simp [hs] at ha
        · rw [hs] at ha hk h
          rcases List.mem_cons.1 ha with rfl | ha
          · cases a <;> simp_all
          · exact hk a ha
      obtain ⟨h', e'⟩ | ⟨k, hk, he, h', e'⟩ := ih (s.setSink
        { s.sink with written := s.sink.written ++ [b], answers := s.sink.answers.tail })
      · refine .inl ⟨hd n h', ?_⟩
        simp only [sinkWriteRepeat, e, andThen_go, e', setSink_sink, setSink_setSink]
        simp [List.replicate_succ]
      · refine .inr ⟨k + 1, by omega, by simpa using he, hd k h', ?_⟩
        simp only [sinkWriteRepeat, e, andThen_go, e', setSink_sink, setSink_setSink]
        simp [List.replicate_succ]
    · refine .inr ⟨0, by omega, by rw [← h]; exact (List.head?_eq_getElem? ..).symm, by simp, ?_⟩
      simp [sinkWriteRepeat, e]

theorem sinkFlush_cases (s : State) :
    (s.sink.answers.head? ≠ some .err ∧ sinkFlush s = .go () (s.setSink
      { s.sink with released := s.sink.written.length, answers := s.sink.answers.tail })) ∨
    (s.sink.answers.head? = some .err ∧
      sinkFlush s = .raise .io (s.setSink { s.sink with answers := s.sink.answers.tail })) := by
  unfold sinkFlush
  rw [takeSinkAnswer_eq]
  rcases s.sink.answers with _ | ⟨_ | _, rest⟩ <;> simp

/-! ### The source -/

theorem takeSourceAnswer_eq (s : State) :
    takeSourceAnswer s =
      (s.source.answers.head?.getD .eod, s.setSource { s.source with answers := s.source.answers.tail }) := by
  unfold takeSourceAnswer
  split <;> rename_i h <;> simp [h]
  rw [← h]; rfl

theorem sourceRead_cases (s : State) :
    (∃ v, s.source.answers.head? = some (.byte v) ∧ sourceRead s = .go v (s.setSource
      { taken := s.source.taken + 1, answers := s.source.answers.tail })) ∨
    (s.source.answers.head?.getD .eod = .eod ∧
      sourceRead s = .raise .eod (s.setSource { s.source with answers := s.source.answers.tail })) ∨
    (s.source.answers.head? = some .err ∧
      sourceRead s = .raise .io (s.setSource { s.source with answers := s.source.answers.tail })) := by
  unfold sourceRead
  rw [takeSourceAnswer_eq]
  rcases s.source.answers with _ | ⟨_ | _ | _, rest⟩ <;> simp

/-! ### ShiftLow -/

theorem countAndShift_cases (s : State) :
    (s.enc.cacheSize = s.config.maxCacheSize ∧ countAndShift s = .raise .invariant s) ∨
    (s.enc.cacheSize ≠ s.config.maxCacheSize ∧ countAndShift s = .go () (s.setEnc
      { s.enc with
        cacheSize := s.enc.cacheSize + 1
        low := (s.enc.low.extractLsb' 0 24).setWidth 33 <<< 8 })) := by
  unfold countAndShift
  by_cases h : s.enc.cacheSize = s.config.maxCacheSize
  · exact .inl ⟨h, if_pos h⟩
  · exact .inr ⟨h, if_neg h⟩

/-- What a piece of ENC's work leaves alone: everything but ENC and the sink, and of these ENC.range and ENC.phase; the sink's
stream only grows, and nothing is released. -/
structure EncWorkFrame (s t : State) : Prop where
  config : t.config = s.config
  dec : t.dec = s.dec
  source : t.source = s.source
  moves : t.moves = s.moves
  responses : t.responses = s.responses
  freeEncCount : t.freeEncCount = s.freeEncCount
  freeDecCount : t.freeDecCount = s.freeDecCount
  range : t.enc.range = s.enc.range
  phase : t.enc.phase = s.enc.phase
  released : t.sink.released = s.sink.released
  written : s.sink.written <+: t.sink.written

theorem EncWorkFrame.refl (s : State) : EncWorkFrame s s :=
  ⟨rfl, rfl, rfl, rfl, rfl, rfl, rfl, rfl, rfl, rfl, List.prefix_refl _⟩

theorem EncWorkFrame.trans {s t u : State} (h : EncWorkFrame s t) (k : EncWorkFrame t u) : EncWorkFrame s u :=
  ⟨k.config.trans h.config, k.dec.trans h.dec, k.source.trans h.source, k.moves.trans h.moves, k.responses.trans h.responses,
    k.freeEncCount.trans h.freeEncCount, k.freeDecCount.trans h.freeDecCount, k.range.trans h.range, k.phase.trans h.phase,
    k.released.trans h.released, h.written.trans k.written⟩

/-- The state a flow ends in, either way. -/
def Flow.state {α : Type} : Flow α → State
  | .go _ s => s
  | .raise _ s => s

@[simp] theorem Flow.state_go {α : Type} (a : α) (s : State) : (Flow.go a s).state = s := rfl

@[simp] theorem Flow.state_raise {α : Type} (f : Fatal) (s : State) : (Flow.raise f s : Flow α).state = s := rfl

/-- A frame of two pieces is a frame of their sequence. -/
theorem andThen_frame {α β : Type} {s : State} {x : Flow α} {k : α → State → Flow β} (h : EncWorkFrame s x.state)
    (hk : ∀ a t, EncWorkFrame t (k a t).state) : EncWorkFrame s (andThen x k).state := by
  cases x with
  | go a t => exact h.trans (hk a t)
  | raise f t => exact h

theorem sinkWrite_frame (b : Byte) (s : State) : EncWorkFrame s (sinkWrite b s).state := by
  obtain ⟨-, e⟩ | ⟨-, e⟩ := sinkWrite_cases b s <;> rw [e]
  · exact ⟨rfl, rfl, rfl, rfl, rfl, rfl, rfl, rfl, rfl, rfl, List.prefix_append _ _⟩
  · exact ⟨rfl, rfl, rfl, rfl, rfl, rfl, rfl, rfl, rfl, rfl, List.prefix_refl _⟩

theorem sinkWriteRepeat_frame (b : Byte) (n : Nat) (s : State) : EncWorkFrame s (sinkWriteRepeat b n s).state := by
  induction n generalizing s with
  | zero => exact .refl s
  | succ n ih => exact andThen_frame (sinkWrite_frame b s) fun _ t => ih t

theorem writeHeldBytes_frame (s : State) : EncWorkFrame s (writeHeldBytes s).state :=
  andThen_frame (sinkWrite_frame _ s) fun _ t => sinkWriteRepeat_frame _ _ t

theorem countAndShift_frame (s : State) : EncWorkFrame s (countAndShift s).state := by
  obtain ⟨-, e⟩ | ⟨-, e⟩ := countAndShift_cases s <;> rw [e]
  · exact .refl s
  · exact ⟨rfl, rfl, rfl, rfl, rfl, rfl, rfl, rfl, rfl, rfl, List.prefix_refl _⟩

theorem holdBackNext_frame (s : State) : EncWorkFrame s (holdBackNext s) :=
  ⟨rfl, rfl, rfl, rfl, rfl, rfl, rfl, rfl, rfl, rfl, List.prefix_refl _⟩

theorem shiftLow_frame (s : State) : EncWorkFrame s (shiftLow s).state := by
  unfold shiftLow
  split
  · split
    · exact .refl s
    · exact andThen_frame (writeHeldBytes_frame s) fun _ t => (holdBackNext_frame t).trans (countAndShift_frame _)
  · exact countAndShift_frame s

theorem shiftLowRepeat_frame (n : Nat) (s : State) : EncWorkFrame s (shiftLowRepeat n s).state := by
  induction n generalizing s with
  | zero => exact .refl s
  | succ n ih => exact andThen_frame (shiftLow_frame s) fun _ t => ih t

/-- Everything writeHeldBytes can do: it writes all of the held bytes and leaves ENC as it was, or some of them and raises ERR_IO. -/
theorem writeHeldBytes_cases (s : State) :
    (∃ t, writeHeldBytes s = .go () t ∧ t.enc = s.enc ∧
      t.sink.written = s.sink.written ++ plusCarry (carry s.enc) s.enc.cache ::
        List.replicate (s.enc.cacheSize - 1) (plusCarry (carry s.enc) 0xFF#8)) ∨
    (∃ t, writeHeldBytes s = .raise .io t ∧ t.enc = s.enc) := by
  unfold writeHeldBytes
  obtain ⟨-, e⟩ | ⟨-, e⟩ := sinkWrite_cases (plusCarry (carry s.enc) s.enc.cache) s
  · rw [e, andThen_go]
    obtain ⟨-, e'⟩ | ⟨k, -, -, -, e'⟩ := sinkWriteRepeat_cases (plusCarry (carry s.enc) 0xFF#8) (s.enc.cacheSize - 1)
      (s.setSink { s.sink with
        written := s.sink.written ++ [plusCarry (carry s.enc) s.enc.cache], answers := s.sink.answers.tail }) <;> rw [e']
    · exact .inl ⟨_, rfl, rfl, by simp⟩
    · exact .inr ⟨_, rfl, rfl⟩
  · rw [e]
    exact .inr ⟨_, rfl, rfl⟩

/-- Everything EncNormalize can do besides raising: leave the state, or shift the range and go through ShiftLow. -/
theorem encNormalize_cases (s : State) :
    (¬ s.enc.range < Config.top ∧ encNormalize s = .go () s) ∨
    (s.enc.range < Config.top ∧ encNormalize s = shiftLow (s.setEnc { s.enc with range := s.enc.range <<< 8 })) := by
  unfold encNormalize
  by_cases h : s.enc.range < Config.top
  · exact .inr ⟨h, if_pos h⟩
  · exact .inl ⟨h, if_neg h⟩

/-! ### DecNormalize and the header -/

/-- What a piece of DEC's work leaves alone: everything but DEC and the source, and of these DEC.phase. -/
structure DecWorkFrame (s t : State) : Prop where
  config : t.config = s.config
  enc : t.enc = s.enc
  sink : t.sink = s.sink
  moves : t.moves = s.moves
  responses : t.responses = s.responses
  freeEncCount : t.freeEncCount = s.freeEncCount
  freeDecCount : t.freeDecCount = s.freeDecCount
  phase : t.dec.phase = s.dec.phase
  taken : s.source.taken ≤ t.source.taken

theorem DecWorkFrame.refl (s : State) : DecWorkFrame s s := ⟨rfl, rfl, rfl, rfl, rfl, rfl, rfl, rfl, le_refl _⟩

theorem DecWorkFrame.trans {s t u : State} (h : DecWorkFrame s t) (k : DecWorkFrame t u) : DecWorkFrame s u :=
  ⟨k.config.trans h.config, k.enc.trans h.enc, k.sink.trans h.sink, k.moves.trans h.moves, k.responses.trans h.responses,
    k.freeEncCount.trans h.freeEncCount, k.freeDecCount.trans h.freeDecCount, k.phase.trans h.phase, h.taken.trans k.taken⟩

theorem andThen_decFrame {α β : Type} {s : State} {x : Flow α} {k : α → State → Flow β} (h : DecWorkFrame s x.state)
    (hk : ∀ a t, DecWorkFrame t (k a t).state) : DecWorkFrame s (andThen x k).state := by
  cases x with
  | go a t => exact h.trans (hk a t)
  | raise f t => exact h

theorem sourceRead_frame (s : State) : DecWorkFrame s (sourceRead s).state := by
  obtain ⟨v, -, e⟩ | ⟨-, e⟩ | ⟨-, e⟩ := sourceRead_cases s <;> rw [e]
  · exact ⟨rfl, rfl, rfl, rfl, rfl, rfl, rfl, rfl, Nat.le_succ _⟩
  · exact ⟨rfl, rfl, rfl, rfl, rfl, rfl, rfl, rfl, le_refl _⟩
  · exact ⟨rfl, rfl, rfl, rfl, rfl, rfl, rfl, rfl, le_refl _⟩

theorem foldByte_frame (v : Byte) (s : State) : DecWorkFrame s (foldByte v s) :=
  ⟨rfl, rfl, rfl, rfl, rfl, rfl, rfl, rfl, le_refl _⟩

theorem decNormalize_frame (s : State) : DecWorkFrame s (decNormalize s).state := by
  unfold decNormalize
  split
  · refine andThen_decFrame (.trans ?_ (sourceRead_frame _)) fun v t => foldByte_frame v t
    exact ⟨rfl, rfl, rfl, rfl, rfl, rfl, rfl, rfl, le_refl _⟩
  · exact .refl s

theorem readCodeBytes_frame (n : Nat) (s : State) : DecWorkFrame s (readCodeBytes n s).state := by
  induction n generalizing s with
  | zero => exact .refl s
  | succ n ih => exact andThen_decFrame (sourceRead_frame s) fun v t => (foldByte_frame v t).trans (ih _)

theorem readLeadingZero_frame (s : State) : DecWorkFrame s (readLeadingZero s).state := by
  refine andThen_decFrame (sourceRead_frame s) fun v t => ?_
  split <;> exact .refl t

theorem checkCode_frame (s : State) : DecWorkFrame s (checkCode s).state := by
  unfold checkCode
  split <;> exact .refl s

/-! ### Taking a fatal status, and reset -/

@[simp] theorem takeFatal_enc_phase (f : Fatal) (p : Prob) (s : State) : (takeFatal .enc f p s).enc.phase = .failed := rfl

@[simp] theorem takeFatal_dec_phase (f : Fatal) (p : Prob) (s : State) : (takeFatal .dec f p s).dec.phase = .failed := rfl

@[simp] theorem takeFatal_responses (u : CoderUnit) (f : Fatal) (p : Prob) (s : State) :
    (takeFatal u f p s).responses = s.responses ++ [responseWord (fatalStatus f) false p] := by cases u <;> rfl

@[simp] theorem takeFatal_sink (u : CoderUnit) (f : Fatal) (p : Prob) (s : State) : (takeFatal u f p s).sink = s.sink := by
  cases u <;> rfl

@[simp] theorem takeFatal_source (u : CoderUnit) (f : Fatal) (p : Prob) (s : State) :
    (takeFatal u f p s).source = s.source := by cases u <;> rfl

@[simp] theorem takeFatal_moves (u : CoderUnit) (f : Fatal) (p : Prob) (s : State) : (takeFatal u f p s).moves = s.moves := by
  cases u <;> rfl

@[simp] theorem takeFatal_config (u : CoderUnit) (f : Fatal) (p : Prob) (s : State) :
    (takeFatal u f p s).config = s.config := by cases u <;> rfl

@[simp] theorem takeFatal_enc_dec (f : Fatal) (p : Prob) (s : State) : (takeFatal .enc f p s).dec = s.dec := rfl

@[simp] theorem takeFatal_dec_enc (f : Fatal) (p : Prob) (s : State) : (takeFatal .dec f p s).enc = s.enc := rfl

/-- Reset from the reset state changes nothing: State.reset holds the values Reset() sets (R270). -/
theorem hardwareReset_reset : hardwareReset State.reset = State.reset := rfl

end Sys2Proof.Machine
end

