-- ==== Sys2Proof/Laws/PerInstr.lean ====
section
/-! SUPPORT. Per-instruction facts about the encoding: the word of each command holds its OP, B and P (30_encoding.md R70, R71). -/

namespace Sys2Proof.Laws.EncodeFields

/-- The three fields of an assembled word are the values assembled. -/
theorem assemble_fields (op : Nat) (h : op < 16) (b : Bool) (p : Prob) :
    (opField (assemble op b p)).toNat = op ∧ bField (assemble op b p) = b ∧ pField (assemble op b p) = p := by
  have hp := p.isLt
  refine ⟨?_, ?_, ?_⟩
  · simp only [opField, assemble, BitVec.extractLsb'_toNat, BitVec.toNat_ofNat, Nat.shiftRight_zero]
    cases b <;> simp only [Bool.toNat_true, Bool.toNat_false] <;> omega
  · simp only [bField, assemble, BitVec.getLsbD_ofNat, Nat.testBit, Nat.shiftRight_eq_div_pow]
    cases b <;> simp only [Bool.toNat_true, Bool.toNat_false, Nat.one_and_eq_mod_two] <;> simp <;> omega
  · apply BitVec.eq_of_toNat_eq
    simp only [pField, assemble, BitVec.extractLsb'_toNat, BitVec.toNat_ofNat, Nat.shiftRight_eq_div_pow]
    cases b <;> simp only [Bool.toNat_true, Bool.toNat_false] <;> omega

/-- The word of `i` holds its OP, its B and its P. -/
def Statement (i : Instr) : Prop :=
  (opField (encode i)).toNat = opCode i ∧ bField (encode i) = bOperand i ∧ pField (encode i) = pOperand i

theorem encInit : Statement .encInit := assemble_fields 0x0 (by decide) _ _

theorem encDirect (b : Bool) : Statement (.encDirect b) := assemble_fields 0x1 (by decide) _ _

theorem encBit (b : Bool) (p : Prob) : Statement (.encBit b p) := assemble_fields 0x2 (by decide) _ _

theorem encFlush : Statement .encFlush := assemble_fields 0x3 (by decide) _ _

theorem pInc (p : Prob) : Statement (.pInc p) := assemble_fields 0x4 (by decide) _ _

theorem pDec (p : Prob) : Statement (.pDec p) := assemble_fields 0x5 (by decide) _ _

theorem decInit : Statement .decInit := assemble_fields 0x8 (by decide) _ _

theorem decDirect : Statement .decDirect := assemble_fields 0x9 (by decide) _ _

theorem decBit (p : Prob) : Statement (.decBit p) := assemble_fields 0xA (by decide) _ _

theorem decAtend : Statement .decAtend := assemble_fields 0xB (by decide) _ _

end Sys2Proof.Laws.EncodeFields
end

