-- ==== Sys2Proof/Laws/Safety.lean ====
section
/-! SUPPORT. Small lemmas of the terms claims are stated in: what one ShiftLow, `n` of them, and the shift of the range leave of
ENC, and the sink's coming answers. -/

namespace Sys2Proof.Machine

/-! ### One ShiftLow -/

@[simp] theorem shifted_range (e : EncUnit) : (shifted e).range = e.range := rfl
@[simp] theorem shifted_phase (e : EncUnit) : (shifted e).phase = e.phase := rfl
@[simp] theorem rangeShifted_low (e : EncUnit) : (rangeShifted e).low = e.low := rfl
@[simp] theorem rangeShifted_cache (e : EncUnit) : (rangeShifted e).cache = e.cache := rfl
@[simp] theorem rangeShifted_cacheSize (e : EncUnit) : (rangeShifted e).cacheSize = e.cacheSize := rfl
@[simp] theorem rangeShifted_phase (e : EncUnit) : (rangeShifted e).phase = e.phase := rfl

theorem shifted_low_toNat (e : EncUnit) : (shifted e).low.toNat = e.low.toNat % 2 ^ 24 * 2 ^ 8 := by
  simp only [shifted, BitVec.toNat_ofNat]
  omega

theorem shiftBytes_of_defers {e : EncUnit} (h : Defers e) : shiftBytes e = [] := if_pos h

theorem shiftBytes_length (e : EncUnit) : (shiftBytes e).length = if Defers e then 0 else e.cacheSize - 1 + 1 := by
  unfold shiftBytes
  split <;> simp

/-- R140 (a), for one ShiftLow: bytes written plus bytes held back grow by one. -/
theorem shiftBytes_length_add {e : EncUnit} (h : 1 ≤ e.cacheSize) :
    (shiftBytes e).length + (shifted e).cacheSize = e.cacheSize + 1 := by
  rw [shiftBytes_length]
  simp only [shifted]
  split <;> omega

theorem one_le_shifted_cacheSize (e : EncUnit) : 1 ≤ (shifted e).cacheSize := by
  simp only [shifted]
  split <;> omega

/-! ### Several ShiftLows -/

@[simp] theorem afterShifts_zero (e : EncUnit) : afterShifts 0 e = e := rfl
@[simp] theorem afterShifts_succ (n : Nat) (e : EncUnit) : afterShifts (n + 1) e = afterShifts n (shifted e) := rfl
@[simp] theorem shiftsBytes_zero (e : EncUnit) : shiftsBytes 0 e = [] := rfl
@[simp] theorem shiftsBytes_succ (n : Nat) (e : EncUnit) :
    shiftsBytes (n + 1) e = shiftBytes e ++ shiftsBytes n (shifted e) := rfl

@[simp] theorem afterShifts_range (n : Nat) (e : EncUnit) : (afterShifts n e).range = e.range := by
  induction n generalizing e with
  | zero => rfl
  | succ n ih => simp [ih]

@[simp] theorem afterShifts_phase (n : Nat) (e : EncUnit) : (afterShifts n e).phase = e.phase := by
  induction n generalizing e with
  | zero => rfl
  | succ n ih => simp [ih]

/-- The first ShiftLow fits, and then the others. -/
theorem shiftsFit_succ (c : Config) (n : Nat) (e : EncUnit) :
    ShiftsFit c (n + 1) e ↔ CountFits c e ∧ ShiftsFit c n (shifted e) :=
  ⟨fun h => ⟨h 0 n.succ_pos, fun k hk => h (k + 1) (Nat.succ_lt_succ hk)⟩,
    fun h k hk => match k with
      | 0 => h.1
      | k + 1 => h.2 k (Nat.lt_of_succ_lt_succ hk)⟩

/-! ### The sink's coming answers -/

theorem sinkAcceptsNext_zero (s : State) : SinkAcceptsNext 0 s := by simp [SinkAcceptsNext]

/-- Fewer answers are accepted too. -/
theorem SinkAcceptsNext.mono {m n : Nat} {s : State} (h : SinkAcceptsNext n s) (hmn : m ≤ n) : SinkAcceptsNext m s :=
  fun a ha => h a ((List.take_sublist_take_left hmn).subset ha)

end Sys2Proof.Machine
end

