-- ==== Sys2Proof/Tests/Slice0.lean ====
section
/-! SUPPORT. Own tests. Expected results come from spec/95_test_vectors.md (V<n>, P<n>) or from a rule's own examples (R<n>);
`witness_` theorems show states and operands that meet the hypotheses of the statement they are named after. -/

namespace Sys2Proof.Tests

open Sys2Proof Sys2Proof.Machine

/-! ### Helpers -/

/-- READY ENC registers set directly. -/
def encAt (range : Word) (low : Low) (cache : Byte) (cacheSize : Nat) : State :=
  { State.reset with enc := { range := range, low := low, cache := cache, cacheSize := cacheSize, phase := .ready } }

/-- READY DEC registers set directly, with the source's coming answers. -/
def decAt (range code : Word) (answers : List SourceAnswer) : State :=
  { State.reset with dec := { range := range, code := code, phase := .ready }, source := { taken := 0, answers := answers } }

/-- A source that holds these bytes. -/
def sourceOf (bs : List Byte) : State := { State.reset with source := { taken := 0, answers := bs.map .byte } }

/-- The sink's coming answers. -/
def withSink (s : State) (answers : List SinkAnswer) : State := { s with sink := { s.sink with answers := answers } }

/-- W_CS. -/
def withWCS (s : State) (n : Nat) : State := { s with config := { wCS := n } }

/-- The host's coming moves. -/
def withMoves (s : State) (m : List HostMove) : State := { s with moves := m }

/-- The responses and the registers and bytes of ENC after a command. -/
def encResult (o : Host.Outcome State Fault Refusal) : Option (List ResponseWord × EncUnit × List Byte) :=
  match o with
  | .next t => some (t.responses, t.enc, t.sink.written)
  | .fault _ | .refused _ => none

/-- The responses, DEC and the source's position after a command. -/
def decResult (o : Host.Outcome State Fault Refusal) : Option (List ResponseWord × DecUnit × Nat) :=
  match o with
  | .next t => some (t.responses, t.dec, t.source.taken)
  | .fault _ | .refused _ => none

/-- The responses, both phases, the sink's bytes and the source's position, where registers are free values. -/
def visible (o : Host.Outcome State Fault Refusal) :
    Option (List ResponseWord × EncPhase × DecPhase × List Byte × Nat) :=
  match o with
  | .next t => some (t.responses, t.enc.phase, t.dec.phase, t.sink.written, t.source.taken)
  | .fault _ | .refused _ => none

/-! ### WellFormed: each check refuses an ill-formed term -/

theorem test_wf_encBit_zero : (Instr.encBit true 0#11).wf = false := by decide

theorem test_wf_pInc_zero : (Instr.pInc 0#11).wf = false := by decide

theorem test_wf_pDec_zero : (Instr.pDec 0#11).wf = false := by decide

theorem test_wf_decBit_zero : (Instr.decBit 0#11).wf = false := by decide

theorem test_wf_encBit_one : (Instr.encBit false 1#11).wf = true := by decide

/-! ### Decode: words written out from R79 and R80 -/

theorem test_decode_encInit : decode 0b0000000000000000#16 = .ok .encInit := by decide

theorem test_decode_encDirect : decode 0b0000000000010001#16 = .ok (.encDirect true) := by decide

theorem test_decode_encBit : decode 0b1000000000010010#16 = .ok (.encBit true 1024#11) := by decide

theorem test_decode_encFlush : decode 0b0000000000000011#16 = .ok .encFlush := by decide

theorem test_decode_pInc : decode 0b0000000000100100#16 = .ok (.pInc 1#11) := by decide

theorem test_decode_pDec : decode 0b1111111111100101#16 = .ok (.pDec 2047#11) := by decide

theorem test_decode_decInit : decode 0b0000000000001000#16 = .ok .decInit := by decide

theorem test_decode_decDirect : decode 0b0000000000001001#16 = .ok .decDirect := by decide

theorem test_decode_decBit : decode 0b1000000000001010#16 = .ok (.decBit 1024#11) := by decide

theorem test_decode_decAtend : decode 0b0000000000001011#16 = .ok .decAtend := by decide

/-- V12. -/
theorem test_decode_rejects :
    decode 0x0006#16 = .error .reservedOp ∧ decode 0xFFFF#16 = .error .reservedOp ∧ decode 0x0010#16 = .error .bNotZero ∧
    decode 0x0021#16 = .error .pNotZero ∧ decode 0x0002#16 = .error .pZero ∧ decode 0x801A#16 = .error .bNotZero := by decide

/-- R79: "For example, ENC.BIT with b = 1 and p = 1024 is ... 0x8012." -/
theorem test_encode_encBit : encode (.encBit true 1024#11) = 0x8012#16 := by decide

theorem test_table_word : decodeTableWord 16 0x8012 = some (.encBit true 1024#11) ∧ decodeTableWord 16 0x0002 = none := by
  decide

/-! ### Steps -/

/-- R79, V7: withFetchWord's word is run by the very next step. -/
theorem test_step_withFetchWord :
    encResult (step (State.reset.withFetchWord 16 0x0011)) =
      some ([0x0000#16], { range := 0x7FFFFFFF#32, low := 0x07FFFFFFF#33, cache := 0#8, cacheSize := 1, phase := .ready }, []) := by decide +kernel

/-- V12: reserved OP. -/
theorem test_step_illegal : step (State.reset.withFetchWord 16 0x0006) = .next { State.reset with responses := [0x0001#16] } := rfl

theorem test_step_idle : step State.reset = .next State.reset := rfl

/-- V4. -/
theorem test_encInit_restarts :
    encResult (exec .encInit (encAt 5#32 0x1FF000000#33 0xFF#8 9)) =
      some ([0x0000#16], { range := 0xFFFFFFFF#32, low := 0#33, cache := 0#8, cacheSize := 1, phase := .ready }, []) := by decide +kernel

/-- V5 row 5: a carry through a pending run. -/
theorem test_encDirect_carry_through_run :
    encResult (exec (.encDirect true) (encAt 0x01000000#32 0x0FFFFFF00#33 0x7E#8 3)) =
      some ([0x0000#16], { range := 0x80000000#32, low := 0x07FFF0000#33, cache := 0x00#8, cacheSize := 1, phase := .ready },
        [0x7F#8, 0x00#8, 0x00#8]) := by decide +kernel

/-- V5 row 6: the run grows. -/
theorem test_encDirect_defers :
    encResult (exec (.encDirect true) (encAt 0x01000000#32 0x0FF000000#33 0x7E#8 3)) =
      some ([0x0000#16], { range := 0x80000000#32, low := 0x080000000#33, cache := 0x7E#8, cacheSize := 4, phase := .ready },
        []) := by decide +kernel

/-- V6 row 6. -/
theorem test_encBit_defers :
    encResult (exec (.encBit true 2047#11) State.reset) =
      some ([0xF800#16], { range := 0x2007FE00#32, low := 0x0DFF80100#33, cache := 0x00#8, cacheSize := 2, phase := .ready },
        []) := by decide +kernel

/-- V6 row 11: one shift only, the range stays below 2^24. -/
theorem test_encBit_one_shift :
    encResult (exec (.encBit false 7#11) (encAt 0x01000000#32 0#33 0x00#8 1)) =
      some ([0x08C0#16], { range := 0x00E00000#32, low := 0#33, cache := 0x00#8, cacheSize := 1, phase := .ready },
        [0x00#8]) := by decide +kernel

/-- V7: the second set row, and the W_CS = 2 row whose count comes to one below the limit and fits. -/
theorem test_encFlush_completes :
    encResult (exec .encFlush (encAt 0xFFFFFFFF#32 0x100000000#33 0x41#8 3)) =
      some ([0x0000#16], { range := 0xFFFFFFFF#32, low := 0#33, cache := 0x00#8, cacheSize := 1, phase := .flushed },
        [0x42#8, 0x00#8, 0x00#8, 0x00#8, 0x00#8, 0x00#8, 0x00#8]) ∧
    encResult (exec .encFlush (withWCS (encAt 0x2007FE00#32 0x0DFF80100#33 0x00#8 2) 2)) =
      some ([0x0000#16], { range := 0x2007FE00#32, low := 0#33, cache := 0x00#8, cacheSize := 1, phase := .flushed },
        [0x00#8, 0xFF#8, 0xDF#8, 0xF8#8, 0x01#8, 0x00#8]) :=
  ⟨by decide +kernel, by decide +kernel⟩

/-- V7: the sink fails on the third byte (R144), and the W_CS = 2 row whose fourth ShiftLow raises ERR_INVARIANT. -/
theorem test_encFlush_fails :
    visible (exec .encFlush (withSink (encAt 0x7FFFFFFF#32 0x07FFFFFFF#33 0x00#8 1) [.ok, .ok, .err])) =
      some ([0x0003#16], .failed, .uninit, [0x00#8, 0x7F#8], 0) ∧
    visible (exec .encFlush (withWCS (encAt 0x7FFFFFFF#32 0x07FFFFFFF#33 0x00#8 1) 2)) =
      some ([0x0006#16], .failed, .uninit, [0x00#8], 0) :=
  ⟨by decide +kernel, by decide +kernel⟩

/-- V2. -/
theorem test_pInc : exec (.pInc 1024#11) State.reset = .next { State.reset with responses := [0x8400#16] } := rfl

/-- V2. -/
theorem test_pDec : exec (.pDec 2047#11) State.reset = .next { State.reset with responses := [0xF800#16] } := rfl

/-- V8. -/
theorem test_decInit_reads_five :
    decResult (exec .decInit (sourceOf [0x00#8, 0x7F#8, 0xFF#8, 0xFF#8, 0xFF#8, 0x09#8])) =
      some ([0x0000#16], { range := 0xFFFFFFFF#32, code := 0x7FFFFFFF#32, phase := .ready }, 5) := by decide +kernel

/-- V8: code = range. -/
theorem test_decInit_malformed :
    visible (exec .decInit (sourceOf [0x00#8, 0xFF#8, 0xFF#8, 0xFF#8, 0xFF#8])) =
      some ([0x0005#16], .ready, .failed, [], 5) := by decide +kernel

/-- V9 row 6: ends with DEC.code = DEC.range, and no status is raised. -/
theorem test_decDirect_code_reaches_range :
    decResult (exec .decDirect (decAt 0x01000001#32 0x01000000#32 [.byte 0x00#8])) =
      some ([0x0008#16], { range := 0x80000000#32, code := 0x80000000#32, phase := .ready }, 1) := by decide +kernel

/-- R182: the bit is chosen by t[31], not by comparing DEC.code with the halved range. -/
theorem test_decDirect_sign_not_compare :
    decResult (exec .decDirect (decAt 0x02000000#32 0x90000000#32 [])) =
      some ([0x0000#16], { range := 0x01000000#32, code := 0x90000000#32, phase := .ready }, 0) := by decide +kernel

/-- V10 row 5. -/
theorem test_decBit_out_of_band :
    decResult (exec (.decBit 2047#11) (decAt 0x01000000#32 0x00FFFFFF#32 [.byte 0x11#8])) =
      some ([0xF808#16], { range := 0x00200000#32, code := 0x001FFF11#32, phase := .ready }, 1) := by decide +kernel

/-- V10 row 8: the response holds P' although the normalization failed. -/
theorem test_decBit_end_of_data :
    visible (exec (.decBit 1024#11) (decAt 0x01000000#32 0#32 [])) = some ([0x8404#16], .ready, .failed, [], 0) := by decide +kernel

/-- V11. -/
theorem test_decAtend : decResult (exec .decAtend (decAt 1#32 0#32 [])) =
    some ([0x0008#16], { range := 1#32, code := 0#32, phase := .ready }, 0) := by decide +kernel

/-- V11: before DEC.INIT. -/
theorem test_decAtend_uninit : exec .decAtend State.reset = .next { State.reset with responses := [0x0002#16] } := rfl

/-- V3: the last row, W_CS = 2. -/
theorem test_shiftLow_count_limit :
    shiftLow (withWCS (encAt 0#32 0x0FF000000#33 0x33#8 3) 2) =
      .raise .invariant (withWCS (encAt 0#32 0x0FF000000#33 0x33#8 3) 2) := by decide +kernel

/-! ### Witnesses: the hypotheses of each statement are met -/

theorem witness_EncodeThenDecodeGivesTheCommand :
    (Instr.encBit true 2047#11).wf = true ∧ (Instr.decBit 1#11).wf = true := by decide

theorem witness_DecodeThenEncodeGivesTheWord : decode 0xFFF2#16 = .ok (.encBit true 2047#11) := by decide

theorem witness_StepRunsTheDecodedCommand :
    (withMoves State.reset [.command 0x0008#16]).moves = .command 0x0008#16 :: [] ∧ decode 0x0008#16 = .ok .decInit ∧
    State.reset.moves = [] := by decide

theorem witness_IllegalWordIsOnlyAnswered :
    (withMoves State.reset [.command 0xFFFF#16]).moves = .command 0xFFFF#16 :: [] ∧
    IllegalWord 0xFFFF#16 ∧ IllegalWord 0x0006#16 ∧ IllegalWord 0x0010#16 ∧ IllegalWord 0x0020#16 ∧ IllegalWord 0x0002#16 ∧
    ¬ IllegalWord 0x0022#16 ∧ ¬ IllegalWord 0x0011#16 :=
  ⟨rfl, by decide, by decide, by decide, by decide, by decide, by decide, by decide⟩

theorem witness_HostResetSetsEveryRegister : (withMoves State.reset [.reset]).moves = .reset :: [] := by decide

theorem witness_BoundIsExact :
    1 ≤ (1#11 : Prob).toNat ∧ 2 ^ 11 ≤ (0x800#32 : Word).toNat ∧ (0x7FF#32 : Word).toNat < 2 ^ 11 ∧ (0#11 : Prob) = 0#11 := by
  decide

theorem witness_IncAndDecAreExact : (1#11 : Prob) ≠ 0#11 ∧ (2047#11 : Prob) ≠ 0#11 := by decide

theorem witness_CellStaysInItsBand :
    (31 ≤ (31#11 : Prob).toNat ∧ (31#11 : Prob).toNat ≤ 2017) ∧ 31 ≤ (2017#11 : Prob).toNat ∧ (2017#11 : Prob).toNat ≤ 2017 := by
  decide

theorem witness_EveryBandValueIsReachable : 31 ≤ (31#11 : Prob).toNat ∧ (31#11 : Prob).toNat ≤ 2017 := by decide

theorem witness_CellCommandsAnswerTheUpdate :
    (1#11 : Prob) ≠ 0#11 ∧ (0#11 : Prob) = 0#11 ∧ (0x8014#16 : CommandWord).toNat % 32 = 0x14 ∧
    (0x8015#16 : CommandWord).toNat % 32 = 0x15 := by decide

theorem witness_EncInitStartsASession : (0x0010#16 : CommandWord).toNat % 16 = 0 ∧ (0x0010#16 : CommandWord) ≠ 0x0000#16 := by
  decide

/-- The defer path's lowest low, which uses no answer, the flush path's highest without a carry, and the flush path with a carry; an
ERR stands right after the answers they use. -/
theorem witness_ShiftLowFlushesOrDefers :
    let s := withSink (encAt 0#32 0x0FF000000#33 0x33#8 1) [.err]
    let t := withSink (encAt 0#32 0x0FEFFFFFF#33 0x33#8 1) [.ok, .err]
    let u := withSink (encAt 0#32 0x100000000#33 0x00#8 1) [.ok, .err]
    (SinkAcceptsNext (shiftBytes s.enc).length s ∧ CountFits s.config s.enc ∧ Defers s.enc) ∧
    (SinkAcceptsNext (shiftBytes t.enc).length t ∧ CountFits t.config t.enc ∧ ¬ Defers t.enc) ∧
    SinkAcceptsNext (shiftBytes u.enc).length u ∧ CountFits u.config u.enc ∧ ¬ Defers u.enc := by decide

/-- One state whose bit needs a shift that fits, and one whose bit needs none; an ERR stands right after the answers they use. -/
theorem witness_EncDirectCodesTheBit :
    let s := withSink (encAt 0x01000000#32 0x012345678#33 0x00#8 1) [.ok, .err]
    let e : EncUnit := { s.enc with range := 0x00800000#32, low := 0x012B45678#33 }
    let t := withSink State.reset [.err]
    let f : EncUnit := { t.enc with range := 0x7FFFFFFF#32, low := 0x07FFFFFFF#33 }
    (s.enc.phase = .ready ∧ SinkAcceptsNext (normalizeBytes e).length s ∧ NeedsShift e.range ∧ CountFits s.config e) ∧
    t.enc.phase = .ready ∧ SinkAcceptsNext (normalizeBytes f).length t ∧ ¬ NeedsShift f.range := by decide

/-- As for ENC.DIRECT, with the bit 0. -/
theorem witness_EncBitCodesTheBit :
    let s := withSink (encAt 0x01000000#32 0#33 0x00#8 1) [.ok, .err]
    let e : EncUnit := { s.enc with range := 0x0000E000#32 }
    let t := withSink State.reset [.err]
    let f : EncUnit := { t.enc with range := 0x7FFFFC00#32 }
    ((7#11 : Prob) ≠ 0#11 ∧ s.enc.phase = .ready ∧ SinkAcceptsNext (normalizeBytes e).length s ∧ NeedsShift e.range ∧
      CountFits s.config e) ∧
    (1024#11 : Prob) ≠ 0#11 ∧ t.enc.phase = .ready ∧ SinkAcceptsNext (normalizeBytes f).length t ∧ ¬ NeedsShift f.range := by
  decide

/-- The state of V7 after ENC.BIT 1, 2047, for W_CS = 2: two pending bytes, and an ERR right after the answers the flush uses. -/
theorem witness_EncFlushWritesTheHeldNumber :
    let s := withSink (withWCS (encAt 0x2007FE00#32 0x0DFF80100#33 0x00#8 2) 2) [.ok, .ok, .ok, .ok, .ok, .ok, .ok, .err]
    s.enc.phase = .ready ∧ ShiftsFit s.config 5 s.enc ∧ SinkAcceptsNext ((shiftsBytes 5 s.enc).length + 1) s ∧
    1 ≤ s.enc.cacheSize := by decide +kernel

/-- The largest count with room for four, for W_CS = 3, and an ERR right after the eight answers the flush uses. -/
theorem witness_FlushFitsWithRoomForFour :
    let s := withSink (withWCS (encAt 0#32 0x0FFFFFFFF#33 0x33#8 3) 3) [.ok, .ok, .ok, .ok, .ok, .ok, .ok, .ok, .err]
    1 ≤ s.enc.cacheSize ∧ s.enc.cacheSize + 4 < 2 ^ s.config.wCS ∧ s.enc.phase = .ready ∧
    SinkAcceptsNext (s.enc.cacheSize + 5) s := by decide

/-- The first byte of the flush path, and the last one, is refused. -/
theorem witness_SinkFailureEndsTheBit :
    let c := CodedBit.direct true
    let s := encAt 0x01000000#32 0x012345678#33 0x00#8 3
    let t := withSink s [.err, .ok]
    let u := withSink s [.ok, .ok, .err]
    (c.Legal ∧ t.enc.phase = .ready ∧ NeedsShift (c.narrow t.enc).range ∧ ¬ Defers (c.narrow t.enc) ∧ 0 < t.enc.cacheSize ∧
      t.sink.answers = List.replicate 0 SinkAnswer.ok ++ SinkAnswer.err :: [SinkAnswer.ok]) ∧
    c.Legal ∧ u.enc.phase = .ready ∧ NeedsShift (c.narrow u.enc).range ∧ ¬ Defers (c.narrow u.enc) ∧ 2 < u.enc.cacheSize ∧
      u.sink.answers = List.replicate 2 SinkAnswer.ok ++ SinkAnswer.err :: [] := by decide

/-- The first write is refused, where a later ShiftLow would not fit (W_CS = 2), and the sink flush itself. -/
theorem witness_SinkFailureEndsTheFlush :
    let t := withSink (withWCS (encAt 0x7FFFFFFF#32 0x07FFFFFFF#33 0x00#8 1) 2) [.err]
    let u := withSink State.reset [.ok, .ok, .ok, .ok, .ok, .err]
    (t.enc.phase = .ready ∧ ShiftsFit t.config 1 t.enc ∧ ¬ ShiftsFit t.config 5 t.enc ∧ 0 < (shiftsBytes 1 t.enc).length ∧
      t.sink.answers = List.replicate 0 SinkAnswer.ok ++ SinkAnswer.err :: []) ∧
    u.enc.phase = .ready ∧ ShiftsFit u.config 5 u.enc ∧ 5 = (shiftsBytes 5 u.enc).length ∧
      u.sink.answers = List.replicate 5 SinkAnswer.ok ++ SinkAnswer.err :: [] :=
  ⟨⟨rfl, by decide +kernel, by decide +kernel, by decide +kernel, rfl⟩, rfl, by decide +kernel, by decide +kernel, rfl⟩

/-- An empty count on the flush path, and a full count on the defer path, of ENC.DIRECT. -/
theorem witness_CountChecksEndTheCommand_bit :
    let c := CodedBit.direct false
    let s := encAt 0x01000000#32 0x012345678#33 0x00#8 0
    let t := withWCS (encAt 0x01000000#32 0x0FF000000#33 0x33#8 3) 2
    (s.config.wf = true ∧ c.Legal ∧ s.enc.phase = .ready ∧ NeedsShift (c.narrow s.enc).range ∧
      ¬ CountFits s.config (c.narrow s.enc)) ∧
    (t.config.wf = true ∧ c.Legal ∧ t.enc.phase = .ready ∧ NeedsShift (c.narrow t.enc).range ∧
      ¬ CountFits t.config (c.narrow t.enc)) := by decide

/-- The first ShiftLow of ENC.FLUSH fails with an ERR at the sink's head, and the fourth, after V7's ENC.DIRECT 1 for W_CS = 2. -/
theorem witness_CountChecksEndTheCommand_flush :
    let s := withSink (withWCS (encAt 0#32 0x0FF000000#33 0x33#8 3) 2) [.err]
    let t := withSink (withWCS (encAt 0x7FFFFFFF#32 0x07FFFFFFF#33 0x00#8 1) 2) [.ok, .err]
    (s.config.wf = true ∧ s.enc.phase = .ready ∧ ShiftsFit s.config 0 s.enc ∧ ¬ CountFits s.config (afterShifts 0 s.enc) ∧
      SinkAcceptsNext (shiftsBytes 0 s.enc).length s) ∧
    t.config.wf = true ∧ t.enc.phase = .ready ∧ ShiftsFit t.config 3 t.enc ∧ ¬ CountFits t.config (afterShifts 3 t.enc) ∧
      SinkAcceptsNext (shiftsBytes 3 t.enc).length t :=
  ⟨by decide +kernel, by decide +kernel⟩

theorem witness_BytesCountShifts :
    let c := CodedBit.direct true
    let s := encAt 0x01000000#32 0x012345678#33 0x00#8 1
    (c.Legal ∧ s.enc.phase = .ready ∧ ∃ t, exec c.encCommand s = .next t ∧ t.enc.phase = .ready) ∧
    s.enc.phase = .ready ∧ ∃ t, exec .encFlush s = .next t ∧ t.enc.phase = .flushed :=
  ⟨⟨trivial, rfl, _, rfl, by decide +kernel⟩, rfl, _, rfl, by decide +kernel⟩

theorem witness_StepKeepsTheEncoderInvariant :
    let s := withMoves (encAt 0x01000000#32 0x0FEFFFFFF#33 0xFF#8 3) [.command 0x0011#16]
    EncInv s ∧ ∃ t, step s = .next t :=
  ⟨by decide, _, rfl⟩

/-- The band's two edges. -/
theorem witness_StepKeepsRangesWide :
    let s := withMoves (decAt 0x01000000#32 0#32 [.byte 0#8]) [.command 0x010A#16]
    let u := withMoves (encAt 0x01000000#32 0#33 0#8 1) [.command 0xFF12#16]
    (RangesWide s ∧ decode 0x010A#16 = .ok (.decBit 8#11) ∧ CellInBand (.decBit 8#11) ∧ ∃ t, step s = .next t) ∧
    RangesWide u ∧ decode 0xFF12#16 = .ok (.encBit true 2040#11) ∧ CellInBand (.encBit true 2040#11) ∧ ∃ t, step u = .next t :=
  ⟨⟨by decide, by decide, by decide, _, rfl⟩, by decide, by decide, by decide, _, rfl⟩

theorem witness_SessionStreamBeginsWithZero :
    AtEncStart State.reset ∧
    AllOk State.reset (encSession [.direct true, .adaptive true 2047#11, .adaptive false 1#11] State.reset) :=
  ⟨rfl, by decide +kernel⟩

theorem witness_DecInitReadsTheHeader :
    let bs : List Byte := [0xFF#8, 0xFF#8, 0xFF#8, 0xFE#8]
    bs.length = 4 ∧ bigEndianValue bs ≠ 0xFFFFFFFF ∧
    (sourceOf (0x00#8 :: bs)).source.answers = (0x00#8 :: bs).map .byte ++ [] := by decide

theorem witness_MalformedHeaderIsRefused :
    ((0x01#8 : Byte) ≠ 0x00#8 ∧ (sourceOf [0x01#8]).source.answers = .byte 0x01#8 :: []) ∧
    (sourceOf [0x00#8, 0xFF#8, 0xFF#8, 0xFF#8, 0xFF#8]).source.answers =
      [0x00#8, 0xFF#8, 0xFF#8, 0xFF#8, 0xFF#8].map .byte ++ [] ∧
    (∃ t, exec .decInit (sourceOf [0x01#8]) = .next t ∧ t.responses = (sourceOf [0x01#8]).responses ++ [0x0005#16] ∧
      (0x0005#16 : ResponseWord).toNat % 8 = 5) ∧
    Instr.encFlush ≠ .decInit ∧ ∃ t, exec .encFlush State.reset = .next t ∧ t.responses = State.reset.responses ++ [0x0000#16] :=
  ⟨by decide, by decide, ⟨_, rfl, by decide +kernel, by decide⟩, by decide, _, rfl, by decide +kernel⟩

/-- A bit that needs no byte, and one that reads one. -/
theorem witness_DecDirectDecodesTheBit :
    let s := decAt 0x02000000#32 0#32 []
    let u := decAt 0x01FFFFFF#32 0#32 [.byte 0xAB#8]
    (s.dec.phase = .ready ∧ ¬ NeedsShift (directDecoded s.dec).2.range) ∧
    u.dec.phase = .ready ∧ NeedsShift (directDecoded u.dec).2.range ∧ u.source.answers = .byte 0xAB#8 :: [] := by decide

theorem witness_DecBitDecodesTheBit :
    let s := decAt 0xFFFFFFFF#32 0#32 []
    let u := decAt 0x01000000#32 0#32 [.byte 0x22#8]
    ((1024#11 : Prob) ≠ 0#11 ∧ s.dec.phase = .ready ∧ ¬ NeedsShift (adaptiveDecoded 1024#11 s.dec).2.range) ∧
    (1#11 : Prob) ≠ 0#11 ∧ u.dec.phase = .ready ∧ NeedsShift (adaptiveDecoded 1#11 u.dec).2.range ∧
      u.source.answers = .byte 0x22#8 :: [] := by decide

theorem witness_DecAtendAnswersCodeIsZero : (decAt 1#32 0#32 []).dec.phase = .ready ∧ State.reset.dec.phase ≠ .ready := by decide

/-- No byte before the failing read, and four. -/
theorem witness_SourceFailureEndsTheCommand :
    let vs : List Byte := [0x00#8, 0xFF#8, 0xFF#8, 0xFF#8]
    let s := decAt 0#32 0#32 (vs.map SourceAnswer.byte ++ [SourceAnswer.err])
    let u := decAt 0x01000000#32 0x00ABCDEF#32 [.eod]
    ((SourceAnswer.eod, 4) ∈ [(SourceAnswer.eod, 4), (SourceAnswer.err, 3)]) ∧
    ((SourceAnswer.err, 3) ∈ [(SourceAnswer.eod, 4), (SourceAnswer.err, 3)]) ∧
    (vs.length < 5 ∧ (∀ v ∈ vs.head?, v = 0x00#8) ∧ s.source.answers = vs.map .byte ++ .err :: []) ∧
    (u.source.answers = ([] : List Byte).map .byte ++ .eod :: []) ∧
    (u.dec.phase = .ready ∧ NeedsShift (directDecoded u.dec).2.range ∧ u.source.answers = .eod :: []) ∧
    (1024#11 : Prob) ≠ 0#11 ∧ NeedsShift (adaptiveDecoded 1024#11 u.dec).2.range := by decide

theorem witness_DecodingKeepsCodeBelowRange :
    let s := decAt 0x800#32 0x7FF#32 [.byte 0xFF#8]
    let u := decAt 0x01000000#32 0x00FFFFFF#32 [.byte 0xFF#8]
    ((2047#11 : Prob) ≠ 0#11 ∧ s.dec.phase = .ready ∧ 2 ^ 11 ≤ s.dec.range.toNat ∧ s.dec.code < s.dec.range ∧
      ∃ t, exec (.decBit 2047#11) s = .next t ∧ t.dec.phase = .ready) ∧
    u.dec.phase = .ready ∧ u.dec.range.toNat % 2 = 0 ∧ u.dec.code < u.dec.range ∧
      ∃ t, exec .decDirect u = .next t ∧ t.dec.phase = .ready :=
  ⟨⟨by decide, rfl, by decide, by decide, _, rfl, by decide +kernel⟩, rfl, by decide, by decide, _, rfl, by decide +kernel⟩

theorem witness_PhaseDecidesErrSeq :
    Instr.decDirect.wf = true ∧ ¬ AcceptedIn .decDirect State.reset ∧ Instr.encFlush.wf = true ∧
    AcceptedIn .encFlush State.reset := by decide

/-- A refused, a fatal and an OK command. -/
theorem witness_StatusSaysWhatBecameOfTheUnit :
    (∃ t, exec .decDirect State.reset = .next t ∧ t.responses = State.reset.responses ++ [0x0002#16]) ∧
    (∃ t, exec .decInit State.reset = .next t ∧ t.responses = State.reset.responses ++ [0x0004#16]) ∧
    ∃ t, exec .encFlush State.reset = .next t ∧ t.responses = State.reset.responses ++ [0x0000#16] :=
  ⟨⟨_, rfl, by decide +kernel⟩, ⟨_, rfl, by decide +kernel⟩, _, rfl, by decide +kernel⟩

/-- A step that flushes ENC, and one on which DEC fails. -/
theorem witness_OnlyTheseStepsChangeAPhase :
    (∃ t, step (withMoves State.reset [.command 0x0003#16]) = .next t ∧ t.enc.phase ≠ State.reset.enc.phase) ∧
    ∃ t, step (withMoves State.reset [.command 0x0008#16]) = .next t ∧ t.dec.phase ≠ State.reset.dec.phase :=
  ⟨⟨_, rfl, by decide +kernel⟩, _, rfl, by decide +kernel⟩

theorem witness_CommandsLeaveTheOtherUnitAlone :
    IsEncCommand .encFlush ∧ IsDecCommand .decInit ∧ ¬ IsEncCommand (.pInc 1#11) ∧ ¬ IsDecCommand (.pInc 1#11) ∧
    (∃ t, exec .encFlush State.reset = .next t) ∧ (∃ t, exec .decInit State.reset = .next t) ∧
    ∃ t, exec (.pInc 1#11) State.reset = .next t :=
  ⟨trivial, trivial, id, id, ⟨_, rfl⟩, ⟨_, rfl⟩, _, rfl⟩

/-- The other unit differs: ENC seen beside two decoders, DEC beside two encoders. -/
theorem witness_UnitsCannotSeeEachOther :
    let s := State.reset
    let d := decAt 7#32 5#32 [.err]
    let e := encAt 7#32 5#33 0xFF#8 4
    (IsEncCommand .encFlush ∧ d.enc = s.enc ∧ d.sink = s.sink ∧ d.config = s.config ∧ d.freeEncCount = s.freeEncCount ∧
      d.dec ≠ s.dec) ∧
    (IsDecCommand .decInit ∧ e.dec = s.dec ∧ e.source = s.source ∧ e.freeDecCount = s.freeDecCount ∧ e.enc ≠ s.enc) ∧
    (∃ t, exec .encFlush s = .next t) ∧ ∃ t, exec .decInit s = .next t :=
  ⟨by decide, by decide, ⟨_, rfl⟩, _, rfl⟩

theorem witness_FailedRegistersAreNeverRead :
    let e : EncUnit := { range := 0#32, low := 0#33, cache := 0#8, cacheSize := 0, phase := .failed }
    let f : EncUnit := { range := 9#32, low := 9#33, cache := 9#8, cacheSize := 9, phase := .failed }
    let d : DecUnit := { range := 0#32, code := 0#32, phase := .failed }
    let s := { State.reset with enc := e, dec := d }
    (s.enc.phase = .failed ∧ f.phase = .failed ∧ s.dec.phase = .failed ∧ d.phase = .failed) ∧
    (∃ t, exec .encInit s = .next t) ∧ (∃ t, exec .encFlush s = .next t) ∧ (∃ t, exec .decInit s = .next t) ∧
    ∃ t, exec .decAtend s = .next t :=
  ⟨by decide, ⟨_, rfl⟩, ⟨_, rfl⟩, ⟨_, rfl⟩, _, rfl⟩

/-- A command that moves bytes and releases them, and one that takes bytes. -/
theorem witness_StreamsOnlyMoveForward :
    (∃ t, exec .encFlush State.reset = .next t ∧ t.sink.written ≠ State.reset.sink.written ∧
      t.sink.released ≠ State.reset.sink.released) ∧
    ∃ t, exec .decInit (sourceOf [0x01#8]) = .next t ∧ t.source.taken ≠ (sourceOf [0x01#8]).source.taken :=
  ⟨⟨_, rfl, by decide +kernel, by decide +kernel⟩, _, rfl, by decide +kernel⟩

/-- A session with a direct and an adaptive bit; its stream stands at the decoder's source. -/
theorem witness_DecoderMirrorsEncoder :
    let cs : List CodedBit := [.direct true, .adaptive true 2047#11]
    let s := State.reset
    let d := sourceOf (bytesSince s (encSession cs s))
    AtEncStart s ∧ AllOk s (encSession cs s) ∧
    (∀ k b p, cs[k]? = some (.adaptive b p) → 2 ^ 11 ≤ (encPrefix cs k s).enc.range.toNat) ∧
    d.source.answers = (bytesSince s (encSession cs s)).map .byte ++ [] := by
  refine ⟨by decide, by decide +kernel, ?_, by decide +kernel⟩
  intro k b p h
  rcases k with _ | _ | k
  · simp at h
  · decide +kernel
  · simp at h

end Sys2Proof.Tests
end

section
/-! PROOFS. Commands as one relation: the work of each command written with the terms of Safety.lean, and `CommandRun`, which says
once everything `exec` can do. -/

namespace Sys2Proof.Machine

/-! ### Bound and the cell update on naturals -/

theorem toNat_bound (r : Word) (p : Prob) : (bound r p).toNat = r.toNat / 2 ^ 11 * p.toNat := by
  have hr : r.toNat / 2 ^ 11 ≤ 2 ^ 21 := by have := r.isLt; omega
  have hlt : r.toNat / 2 ^ 11 * p.toNat < 2 ^ 32 := by
    have := Nat.mul_lt_mul_of_le_of_lt hr p.isLt (by decide)
    omega
  have hp : p.toNat % 2 ^ 32 = p.toNat := Nat.mod_eq_of_lt (p.isLt.trans (by decide))
  simp only [bound, cellWord, BitVec.toNat_mul, BitVec.toNat_ushiftRight, BitVec.toNat_setWidth, Nat.shiftRight_eq_div_pow, hp]
  exact Nat.mod_eq_of_lt hlt

theorem div_mul_cell_le (r : Nat) (p : Prob) : r / 2 ^ 11 * p.toNat ≤ r :=
  (Nat.mul_le_mul_left _ p.isLt.le).trans (Nat.div_mul_le_self ..)

theorem bound_le (r : Word) (p : Prob) : (bound r p).toNat ≤ r.toNat :=
  (toNat_bound r p).trans_le (div_mul_cell_le ..)

theorem cellUpdate_eq_newCell (b : Bool) (p : Prob) : cellUpdate b p = BitVec.ofNat 11 (newCell b p.toNat) := by
  cases b <;> rfl

/-! ### The words behind the rules' naturals -/

theorem ofNat_half (r : Word) : BitVec.ofNat 32 (r.toNat / 2) = r >>> 1 := by
  apply BitVec.eq_of_toNat_eq
  simp only [BitVec.toNat_ushiftRight, BitVec.toNat_ofNat, Nat.shiftRight_eq_div_pow]
  omega

theorem ofNat_toNat_sub {a b : Word} (h : b.toNat ≤ a.toNat) : BitVec.ofNat 32 (a.toNat - b.toNat) = a - b := by
  apply BitVec.eq_of_toNat_eq
  simp only [BitVec.toNat_sub, BitVec.toNat_ofNat]
  omega

theorem ofNat_low_add (l : Low) (v : Word) : BitVec.ofNat 33 (l.toNat + v.toNat) = l + v.setWidth 33 := by
  apply BitVec.eq_of_toNat_eq
  simp only [BitVec.toNat_add, BitVec.toNat_setWidth, BitVec.toNat_ofNat]
  omega

theorem toNat_half (r : Word) : (r >>> 1).toNat = r.toNat / 2 := by
  simp only [BitVec.toNat_ushiftRight, Nat.shiftRight_eq_div_pow, pow_one]

/-- The difference DEC.DIRECT tests, on naturals (R182). -/
theorem toNat_sub_half (c r : Word) : (c - r >>> 1).toNat = (c.toNat + 2 ^ 32 - r.toNat / 2) % 2 ^ 32 := by
  rw [BitVec.toNat_sub, toNat_half]
  omega

theorem signBit_eq_decide (t : Word) : signBit t = decide (2 ^ 31 ≤ t.toNat) := BitVec.msb_eq_decide t

/-! ### One coded bit -/

/-- The P of the bit's response (R76). -/
def CodedBit.newP (c : CodedBit) : Prob := BitVec.ofNat 11 c.responseP

/-- What ENC does for one bit: narrow the interval, normalize, answer (R137, R138). -/
def CodedBit.encWork (c : CodedBit) (s : State) : Flow (Bool × Prob) :=
  andThen (encNormalize (s.setEnc (c.narrow s.enc))) fun _ t => .go (false, c.newP) t

/-- The bit DEC finds, and DEC before the normalization (R182, R183); of `c` only its kind and its `p` count. -/
def CodedBit.decoded (c : CodedBit) (d : DecUnit) : Bool × DecUnit :=
  match c with
  | .direct _ => directDecoded d
  | .adaptive _ p => adaptiveDecoded p d

/-- The P of DEC's response once the bit is known (R76). -/
def CodedBit.decodedP (c : CodedBit) (bit : Bool) : Prob :=
  match c with
  | .direct _ => 0#11
  | .adaptive _ p => cellUpdate bit p

/-- What DEC does for one bit: choose it, normalize, answer (R182, R183). -/
def CodedBit.decWork (c : CodedBit) (s : State) : Flow (Bool × Prob) :=
  andThen (decNormalize (s.setDec (c.decoded s.dec).2)) fun _ t =>
    .go ((c.decoded s.dec).1, c.decodedP (c.decoded s.dec).1) t

/-- What ENC.FLUSH does (R139). -/
def flushWork (s : State) : Flow (Bool × Prob) :=
  andThen (shiftLowRepeat Config.flushShifts s) fun _ t =>
    andThen (sinkFlush t) fun _ u => .go (false, 0#11) (u.setEnc { u.enc with phase := .flushed })

/-- What DEC.INIT does (R181). -/
def decInitWork (s : State) : Flow (Bool × Prob) :=
  andThen (readLeadingZero (decSessionStart s)) fun _ t =>
    andThen (readCodeBytes 4 t) fun _ u =>
      andThen (checkCode u) fun _ v => .go (false, 0#11) (v.setDec { v.dec with phase := .ready })

theorem encNarrow_direct (b : Bool) (s : State) :
    encNarrow (s.enc.range >>> 1) (addendFor b (s.enc.range >>> 1)) s = s.setEnc ((CodedBit.direct b).narrow s.enc) := by
  simp only [encNarrow, CodedBit.narrow, CodedBit.zeroWidth, CodedBit.oneWidth, ← toNat_half]
  cases b
  · simp [addendFor, CodedBit.bit, -BitVec.toNat_ushiftRight]
  · simp [addendFor, CodedBit.bit, ofNat_low_add, -BitVec.toNat_ushiftRight]

theorem encNarrow_adaptive (b : Bool) (p : Prob) (s : State) :
    encNarrow (if b then s.enc.range - bound s.enc.range p else bound s.enc.range p) (addendFor b (bound s.enc.range p)) s =
      s.setEnc ((CodedBit.adaptive b p).narrow s.enc) := by
  simp only [encNarrow, CodedBit.narrow, CodedBit.zeroWidth, CodedBit.oneWidth, ← toNat_bound]
  cases b
  · simp [addendFor, CodedBit.bit]
  · simp [addendFor, CodedBit.bit, ofNat_low_add, ofNat_toNat_sub (bound_le ..)]

theorem decoded_direct (b : Bool) (d : DecUnit) :
    (CodedBit.direct b).decoded d =
      (!signBit (d.code - d.range >>> 1),
        { d with
          range := d.range >>> 1
          code := if signBit (d.code - d.range >>> 1) then d.code - d.range >>> 1 + d.range >>> 1
            else d.code - d.range >>> 1 }) := by
  simp only [CodedBit.decoded, directDecoded, ← toNat_sub_half, ofNat_half, BitVec.ofNat_toNat, BitVec.setWidth_eq,
    BitVec.sub_add_cancel, signBit_eq_decide]
  by_cases h : 2 ^ 31 ≤ (d.code - d.range >>> 1).toNat <;> simp only [h, decide_true, decide_false] <;> rfl

theorem decoded_adaptive (b : Bool) (p : Prob) (d : DecUnit) :
    (CodedBit.adaptive b p).decoded d =
      (decide (¬ d.code < bound d.range p),
        if decide (¬ d.code < bound d.range p) then
          { d with range := d.range - bound d.range p, code := d.code - bound d.range p }
        else { d with range := bound d.range p }) := by
  simp only [CodedBit.decoded, adaptiveDecoded, BitVec.lt_def, ← toNat_bound]
  by_cases h : d.code.toNat < (bound d.range p).toNat
  · simp [h]
  · simp [h, ofNat_toNat_sub (bound_le ..), ofNat_toNat_sub (Nat.le_of_not_lt h)]

/-! ### The end of a command -/

/-- The state a command's work ends in: answered OK, or failed (R83 step 3). -/
def commandEnd (u : CoderUnit) (q : Prob) : Flow (Bool × Prob) → State
  | .go (bit, p) s => s.respond .ok bit p
  | .raise f s => takeFatal u f q s

@[simp] theorem commandEnd_go (u : CoderUnit) (q : Prob) (a : Bool × Prob) (s : State) :
    commandEnd u q (.go a s) = s.respond .ok a.1 a.2 := rfl

@[simp] theorem commandEnd_raise (u : CoderUnit) (q : Prob) (f : Fatal) (s : State) :
    commandEnd u q (.raise f s) = takeFatal u f q s := rfl

/-- The response word a command's work ends in. -/
def commandResponse (q : Prob) : Flow (Bool × Prob) → ResponseWord
  | .go (bit, p) _ => responseWord .ok bit p
  | .raise f _ => responseWord (fatalStatus f) false q

theorem commandEnd_responses (u : CoderUnit) (q : Prob) (x : Flow (Bool × Prob)) :
    (commandEnd u q x).responses = x.state.responses ++ [commandResponse q x] := by
  cases x with
  | go a s => rfl
  | raise f s => exact takeFatal_responses u f q s

theorem endCommand_eq_next (u : CoderUnit) (q : Prob) (x : Flow (Bool × Prob)) :
    endCommand u q x = .next (commandEnd u q x) := by
  rcases x with ⟨⟨bit, p⟩, s⟩ | ⟨f, s⟩ <;> rfl

/-! ### What each command does -/

theorem cellLegal_eq_true (p : Prob) : cellLegal p = true ↔ p ≠ 0#11 := bne_iff_ne

/-- R74 (d), R231: a term that is not well formed is answered ERR_ILLEGAL, in every phase. -/
theorem exec_of_not_wf {i : Instr} (h : i.wf = false) (s : State) : exec i s = .next (refuseIllegal s) := by
  have zero : ∀ p : Prob, cellLegal p = false → p = 0#11 := fun p hp => by simpa [cellLegal] using hp
  cases i with
  | encBit b p => cases zero p h; rfl
  | pInc p => cases zero p h; rfl
  | pDec p => cases zero p h; rfl
  | decBit p => cases zero p h; rfl
  | encInit | encDirect _ | encFlush | decInit | decDirect | decAtend => cases h

/-- R232: a well-formed command whose unit's phase does not accept it is answered ERR_SEQ. -/
theorem exec_of_not_accepted {i : Instr} {s : State} (hw : i.wf = true) (h : ¬ AcceptedIn i s) :
    exec i s = .next (refuseSeq s) := by
  cases i with
  | encDirect b => exact whenEncReady_not_ready h _
  | encBit b p => exact (whenCellLegal_legal ((cellLegal_eq_true p).1 hw) s _).trans (whenEncReady_not_ready h _)
  | encFlush => exact whenEncReady_not_ready h _
  | decDirect => exact whenDecReady_not_ready h _
  | decBit p => exact (whenCellLegal_legal ((cellLegal_eq_true p).1 hw) s _).trans (whenDecReady_not_ready h _)
  | decAtend => exact whenDecReady_not_ready h _
  | encInit | decInit | pInc _ | pDec _ => exact absurd trivial h

theorem exec_encInit (s : State) : exec .encInit s = .next ((encSessionStart s).respond .ok false 0#11) := rfl

theorem exec_encCommand {c : CodedBit} {s : State} (hl : c.Legal) (hr : s.enc.phase = .ready) :
    exec c.encCommand s = .next (commandEnd .enc c.newP (c.encWork s)) := by
  rw [← endCommand_eq_next]
  cases c with
  | direct b =>
    refine (whenEncReady_ready hr _).trans ?_
    simp only [encNarrow_direct]
    rfl
  | adaptive b p =>
    refine (whenCellLegal_legal hl s _).trans ((whenEncReady_ready hr _).trans ?_)
    simp only [encNarrow_adaptive, cellUpdate_eq_newCell]
    rfl

theorem exec_encFlush {s : State} (hr : s.enc.phase = .ready) :
    exec .encFlush s = .next (commandEnd .enc 0#11 (flushWork s)) := by
  rw [← endCommand_eq_next]
  exact whenEncReady_ready hr _

theorem exec_decInit (s : State) : exec .decInit s = .next (commandEnd .dec 0#11 (decInitWork s)) :=
  endCommand_eq_next _ _ (decInitWork s)

theorem exec_decCommand {c : CodedBit} {s : State} (hl : c.Legal) (hr : s.dec.phase = .ready) :
    exec c.decCommand s = .next (commandEnd .dec (c.decodedP (c.decoded s.dec).1) (c.decWork s)) := by
  rw [← endCommand_eq_next]
  cases c with
  | direct b =>
    refine (whenDecReady_ready hr _).trans ?_
    simp only [CodedBit.decWork, decoded_direct]
    rfl
  | adaptive b p =>
    refine (whenCellLegal_legal hl s _).trans ((whenDecReady_ready hr _).trans ?_)
    simp only [CodedBit.decWork, decoded_adaptive]
    rfl

theorem exec_decAtend {s : State} (hr : s.dec.phase = .ready) :
    exec .decAtend s = .next (s.respond .ok (atEnd s.dec) 0#11) := whenDecReady_ready hr _

/-! ### Every command, once -/

/-- Everything a command can do, in the order of R83: the refusals, then the work of each accepted command. -/
inductive CommandRun (s : State) : Instr → State → Prop where
  | illegal {i : Instr} (hw : i.wf = false) : CommandRun s i (refuseIllegal s)
  | outOfPhase {i : Instr} (hw : i.wf = true) (ha : ¬ AcceptedIn i s) : CommandRun s i (refuseSeq s)
  | pInc {p : Prob} (hp : p ≠ 0#11) : CommandRun s (.pInc p) (s.respond .ok false (inc p))
  | pDec {p : Prob} (hp : p ≠ 0#11) : CommandRun s (.pDec p) (s.respond .ok false (dec p))
  | encInit : CommandRun s .encInit ((encSessionStart s).respond .ok false 0#11)
  | encBit (c : CodedBit) (hl : c.Legal) (hr : s.enc.phase = .ready) :
      CommandRun s c.encCommand (commandEnd .enc c.newP (c.encWork s))
  | encFlush (hr : s.enc.phase = .ready) : CommandRun s .encFlush (commandEnd .enc 0#11 (flushWork s))
  | decInit : CommandRun s .decInit (commandEnd .dec 0#11 (decInitWork s))
  | decBit (c : CodedBit) (hl : c.Legal) (hr : s.dec.phase = .ready) :
      CommandRun s c.decCommand (commandEnd .dec (c.decodedP (c.decoded s.dec).1) (c.decWork s))
  | decAtend (hr : s.dec.phase = .ready) : CommandRun s .decAtend (s.respond .ok (atEnd s.dec) 0#11)

theorem CommandRun.exec_eq {s t : State} {i : Instr} (h : CommandRun s i t) : exec i s = .next t := by
  cases h with
  | illegal hw => exact exec_of_not_wf hw s
  | outOfPhase hw ha => exact exec_of_not_accepted hw ha
  | pInc hp => exact whenCellLegal_legal hp s _
  | pDec hp => exact whenCellLegal_legal hp s _
  | encInit => exact exec_encInit s
  | encBit c hl hr => exact exec_encCommand hl hr
  | encFlush hr => exact exec_encFlush hr
  | decInit => exact exec_decInit s
  | decBit c hl hr => exact exec_decCommand hl hr
  | decAtend hr => exact exec_decAtend hr

/-- Every command runs in one of these ways, from every state. -/
theorem exists_commandRun (i : Instr) (s : State) : ∃ t, CommandRun s i t := by
  cases hw : i.wf with
  | false => exact ⟨_, .illegal hw⟩
  | true =>
    by_cases ha : AcceptedIn i s
    · cases i with
      | encInit => exact ⟨_, .encInit⟩
      | encDirect b => exact ⟨_, .encBit (.direct b) trivial ha⟩
      | encBit b p => exact ⟨_, .encBit (.adaptive b p) ((cellLegal_eq_true p).1 hw) ha⟩
      | encFlush => exact ⟨_, .encFlush ha⟩
      | pInc p => exact ⟨_, .pInc ((cellLegal_eq_true p).1 hw)⟩
      | pDec p => exact ⟨_, .pDec ((cellLegal_eq_true p).1 hw)⟩
      | decInit => exact ⟨_, .decInit⟩
      | decDirect => exact ⟨_, .decBit (.direct false) trivial ha⟩
      | decBit p => exact ⟨_, .decBit (.adaptive false p) ((cellLegal_eq_true p).1 hw) ha⟩
      | decAtend => exact ⟨_, .decAtend ha⟩
    · exact ⟨_, .outOfPhase hw ha⟩

theorem exec_eq_next_iff {i : Instr} {s t : State} : exec i s = .next t ↔ CommandRun s i t := by
  refine ⟨fun h => ?_, CommandRun.exec_eq⟩
  obtain ⟨u, hu⟩ := exists_commandRun i s
  cases h.symm.trans hu.exec_eq
  exact hu

/-- Everything a step can do: hold the state, reset, answer an illegal word, or run the command decoded. -/
theorem step_cases {s t : State} (h : step s = .next t) :
    (s.moves = [] ∧ t = s) ∨
    (∃ rest, s.moves = .reset :: rest ∧ t = hardwareReset (s.setMoves rest)) ∨
    (∃ w rest e, s.moves = .command w :: rest ∧ decode w = .error e ∧ t = refuseIllegal (s.setMoves rest)) ∨
    (∃ w rest i, s.moves = .command w :: rest ∧ decode w = .ok i ∧ CommandRun (s.setMoves rest) i t) := by
  rcases hm : s.moves with _ | ⟨w | _, rest⟩
  · simp only [step, takeMove, hm, Host.Outcome.next.injEq] at h
    exact .inl ⟨rfl, h.symm⟩
  · simp only [step, takeMove, hm, acceptWord] at h
    cases hd : decode w with
    | error e =>
      simp only [hd, Host.Outcome.next.injEq] at h
      exact .inr (.inr (.inl ⟨w, rest, e, rfl, hd, h.symm⟩))
    | ok i =>
      simp only [hd] at h
      exact .inr (.inr (.inr ⟨w, rest, i, rfl, hd, exec_eq_next_iff.1 h⟩))
  · simp only [step, takeMove, hm, Host.Outcome.next.injEq] at h
    exact .inr (.inl ⟨rest, rfl, h.symm⟩)

end Sys2Proof.Machine
end

section
/-! PROOFS. R20, one side at a time. `encInto r s` is `r` with ENC's side of `s` put in; every piece of ENC's work commutes with it,
whatever `r` holds, and DEC's work commutes with `decInto r`. With `r = s` this is the frame of the work, and with `r` another
state it is the independence of the units. -/

namespace Sys2Proof.Machine

/-! ### Putting one side into another state -/

/-- `r` with ENC's side of `s`: the unit, the sink, W_CS and the unit's free-value counter. -/
def encInto (r s : State) : State :=
  { r with config := s.config, enc := s.enc, sink := s.sink, freeEncCount := s.freeEncCount }

/-- `r` with DEC's side of `s`: the unit, the source and the unit's free-value counter. -/
def decInto (r s : State) : State := { r with dec := s.dec, source := s.source, freeDecCount := s.freeDecCount }

@[simp] theorem encInto_enc (r s : State) : (encInto r s).enc = s.enc := rfl
@[simp] theorem encInto_sink (r s : State) : (encInto r s).sink = s.sink := rfl
@[simp] theorem encInto_config (r s : State) : (encInto r s).config = s.config := rfl
@[simp] theorem encInto_responses (r s : State) : (encInto r s).responses = r.responses := rfl
@[simp] theorem encInto_setEnc (r s : State) (e : EncUnit) : (encInto r s).setEnc e = encInto r (s.setEnc e) := rfl
@[simp] theorem encInto_setSink (r s : State) (k : SinkPort) : (encInto r s).setSink k = encInto r (s.setSink k) := rfl

@[simp] theorem decInto_dec (r s : State) : (decInto r s).dec = s.dec := rfl
@[simp] theorem decInto_source (r s : State) : (decInto r s).source = s.source := rfl
@[simp] theorem decInto_responses (r s : State) : (decInto r s).responses = r.responses := rfl
@[simp] theorem decInto_setDec (r s : State) (d : DecUnit) : (decInto r s).setDec d = decInto r (s.setDec d) := rfl
@[simp] theorem decInto_setSource (r s : State) (k : SourcePort) :
    (decInto r s).setSource k = decInto r (s.setSource k) := rfl

/-! ### Work that commutes with a map of the state -/

/-- A flow with its state mapped. -/
def Flow.mapState {α : Type} (g : State → State) : Flow α → Flow α
  | .go a s => .go a (g s)
  | .raise f s => .raise f (g s)

@[simp] theorem Flow.mapState_go {α : Type} (g : State → State) (a : α) (s : State) :
    (Flow.go a s).mapState g = .go a (g s) := rfl

@[simp] theorem Flow.mapState_raise {α : Type} (g : State → State) (f : Fatal) (s : State) :
    (Flow.raise f s : Flow α).mapState g = .raise f (g s) := rfl

@[simp] theorem Flow.state_mapState {α : Type} (g : State → State) (x : Flow α) : (x.mapState g).state = g x.state := by
  cases x <;> rfl

/-- Two pieces that commute with a map of the state do so in sequence. -/
theorem andThen_mapState {α β : Type} {g : State → State} {x y : Flow α} {k l : α → State → Flow β}
    (hx : y = x.mapState g) (hk : ∀ a t, l a (g t) = (k a t).mapState g) :
    andThen y l = (andThen x k).mapState g := by
  subst hx
  cases x with
  | go a t => exact hk a t
  | raise f t => rfl

/-! ### ENC's work -/

theorem sinkWrite_encInto (b : Byte) (r s : State) : sinkWrite b (encInto r s) = (sinkWrite b s).mapState (encInto r) := by
  rcases h : s.sink.answers with _ | ⟨_ | _, rest⟩ <;> simp [sinkWrite, takeSinkAnswer, h]

theorem sinkFlush_encInto (r s : State) : sinkFlush (encInto r s) = (sinkFlush s).mapState (encInto r) := by
  rcases h : s.sink.answers with _ | ⟨_ | _, rest⟩ <;> simp [sinkFlush, takeSinkAnswer, h]

theorem sinkWriteRepeat_encInto (b : Byte) (n : Nat) (r s : State) :
    sinkWriteRepeat b n (encInto r s) = (sinkWriteRepeat b n s).mapState (encInto r) := by
  induction n generalizing s with
  | zero => rfl
  | succ n ih => exact andThen_mapState (sinkWrite_encInto b r s) fun _ t => ih t

theorem writeHeldBytes_encInto (r s : State) :
    writeHeldBytes (encInto r s) = (writeHeldBytes s).mapState (encInto r) :=
  andThen_mapState (sinkWrite_encInto _ r s) fun _ t => sinkWriteRepeat_encInto _ _ r t

theorem countAndShift_encInto (r s : State) :
    countAndShift (encInto r s) = (countAndShift s).mapState (encInto r) := by
  by_cases h : s.enc.cacheSize = s.config.maxCacheSize <;> simp [countAndShift, h]

theorem shiftLow_encInto (r s : State) : shiftLow (encInto r s) = (shiftLow s).mapState (encInto r) := by
  unfold shiftLow
  rw [encInto_enc]
  split
  · split
    · rfl
    · exact andThen_mapState (writeHeldBytes_encInto r s) fun _ t => countAndShift_encInto r (holdBackNext t)
  · exact countAndShift_encInto r s

theorem shiftLowRepeat_encInto (n : Nat) (r s : State) :
    shiftLowRepeat n (encInto r s) = (shiftLowRepeat n s).mapState (encInto r) := by
  induction n generalizing s with
  | zero => rfl
  | succ n ih => exact andThen_mapState (shiftLow_encInto r s) fun _ t => ih t

theorem encNormalize_encInto (r s : State) :
    encNormalize (encInto r s) = (encNormalize s).mapState (encInto r) := by
  unfold encNormalize
  rw [encInto_enc]
  split
  · exact shiftLow_encInto r (s.setEnc _)
  · rfl

theorem encWork_encInto (c : CodedBit) (r s : State) : c.encWork (encInto r s) = (c.encWork s).mapState (encInto r) :=
  andThen_mapState (encNormalize_encInto r (s.setEnc (c.narrow s.enc))) fun _ _ => rfl

theorem flushWork_encInto (r s : State) : flushWork (encInto r s) = (flushWork s).mapState (encInto r) :=
  andThen_mapState (shiftLowRepeat_encInto _ r s) fun _ t => andThen_mapState (sinkFlush_encInto r t) fun _ _ => rfl

/-! ### DEC's work -/

theorem sourceRead_decInto (r s : State) : sourceRead (decInto r s) = (sourceRead s).mapState (decInto r) := by
  rcases h : s.source.answers with _ | ⟨_ | _ | _, rest⟩ <;> simp [sourceRead, takeSourceAnswer, h]

theorem readLeadingZero_decInto (r s : State) :
    readLeadingZero (decInto r s) = (readLeadingZero s).mapState (decInto r) :=
  andThen_mapState (sourceRead_decInto r s) fun v t => by by_cases h : v = 0x00#8 <;> simp [h]

theorem readCodeBytes_decInto (n : Nat) (r s : State) :
    readCodeBytes n (decInto r s) = (readCodeBytes n s).mapState (decInto r) := by
  induction n generalizing s with
  | zero => rfl
  | succ n ih => exact andThen_mapState (sourceRead_decInto r s) fun v t => ih (foldByte v t)

theorem checkCode_decInto (r s : State) : checkCode (decInto r s) = (checkCode s).mapState (decInto r) := by
  by_cases h : s.dec.range ≤ s.dec.code <;> simp [checkCode, h]

theorem decNormalize_decInto (r s : State) :
    decNormalize (decInto r s) = (decNormalize s).mapState (decInto r) := by
  unfold decNormalize
  rw [decInto_dec]
  split
  · exact andThen_mapState (sourceRead_decInto r (s.setDec _)) fun _ _ => rfl
  · rfl

theorem decInitWork_decInto (r s : State) : decInitWork (decInto r s) = (decInitWork s).mapState (decInto r) :=
  andThen_mapState (readLeadingZero_decInto r (decSessionStart s)) fun _ t =>
    andThen_mapState (readCodeBytes_decInto 4 r t) fun _ u => andThen_mapState (checkCode_decInto r u) fun _ _ => rfl

theorem decWork_decInto (c : CodedBit) (r s : State) : c.decWork (decInto r s) = (c.decWork s).mapState (decInto r) :=
  andThen_mapState (decNormalize_decInto r (s.setDec (c.decoded s.dec).2)) fun _ _ => rfl

/-! ### Whole commands -/

/-- `r` after a command of ENC that takes `s` to `t`: ENC's side of `t`, and the same response. -/
def encAnswered (r s t : State) : State := { encInto r t with responses := r.responses ++ responsesSince s t }

/-- `r` after a command of DEC that takes `s` to `t`: DEC's side of `t`, and the same response. -/
def decAnswered (r s t : State) : State := { decInto r t with responses := r.responses ++ responsesSince s t }

theorem responsesSince_append {s t : State} {rs : List ResponseWord} (h : t.responses = s.responses ++ rs) :
    responsesSince s t = rs := by simp [responsesSince, h]

theorem responsesSince_encAnswered (r s t : State) : responsesSince r (encAnswered r s t) = responsesSince s t :=
  responsesSince_append rfl

theorem responsesSince_decAnswered (r s t : State) : responsesSince r (decAnswered r s t) = responsesSince s t :=
  responsesSince_append rfl

theorem respond_encInto (r s : State) (st : Status) (bit : Bool) (p : Prob) :
    (encInto r s).respond st bit p = encAnswered r s (s.respond st bit p) := by
  rw [encAnswered, responsesSince_append (respond_responses s st bit p)]
  rfl

theorem respond_decInto (r s : State) (st : Status) (bit : Bool) (p : Prob) :
    (decInto r s).respond st bit p = decAnswered r s (s.respond st bit p) := by
  rw [decAnswered, responsesSince_append (respond_responses s st bit p)]
  rfl

theorem state_eq_encInto {α : Type} {w : State → Flow α} (hw : ∀ r s, w (encInto r s) = (w s).mapState (encInto r))
    (s : State) : (w s).state = encInto s (w s).state :=
  (congrArg Flow.state (hw s s)).trans (Flow.state_mapState ..)

theorem state_eq_decInto {α : Type} {w : State → Flow α} (hw : ∀ r s, w (decInto r s) = (w s).mapState (decInto r))
    (s : State) : (w s).state = decInto s (w s).state :=
  (congrArg Flow.state (hw s s)).trans (Flow.state_mapState ..)

/-- Work that commutes with `encInto` delivers no response of its own. -/
theorem responses_of_encInto {α : Type} {w : State → Flow α} (hw : ∀ r s, w (encInto r s) = (w s).mapState (encInto r))
    (s : State) : (w s).state.responses = s.responses :=
  (congrArg State.responses (state_eq_encInto hw s)).trans rfl

theorem responses_of_decInto {α : Type} {w : State → Flow α} (hw : ∀ r s, w (decInto r s) = (w s).mapState (decInto r))
    (s : State) : (w s).state.responses = s.responses :=
  (congrArg State.responses (state_eq_decInto hw s)).trans rfl

/-- A command whose work commutes with `encInto` ends alike, whatever the other side is. -/
theorem commandEnd_encInto (q : Prob) {w : State → Flow (Bool × Prob)}
    (hw : ∀ r s, w (encInto r s) = (w s).mapState (encInto r)) (r s : State) :
    commandEnd .enc q (w (encInto r s)) = encAnswered r s (commandEnd .enc q (w s)) := by
  rw [hw, encAnswered, responsesSince_append ((commandEnd_responses ..).trans (by rw [responses_of_encInto hw]))]
  cases w s <;> rfl

theorem commandEnd_decInto (q : Prob) {w : State → Flow (Bool × Prob)}
    (hw : ∀ r s, w (decInto r s) = (w s).mapState (decInto r)) (r s : State) :
    commandEnd .dec q (w (decInto r s)) = decAnswered r s (commandEnd .dec q (w s)) := by
  rw [hw, decAnswered, responsesSince_append ((commandEnd_responses ..).trans (by rw [responses_of_decInto hw]))]
  cases w s <;> rfl

theorem isEncCommand_encCommand (c : CodedBit) : IsEncCommand c.encCommand := by cases c <;> trivial

theorem isDecCommand_decCommand (c : CodedBit) : IsDecCommand c.decCommand := by cases c <;> trivial

theorem not_isDecCommand_of_isEncCommand {i : Instr} (h : IsEncCommand i) : ¬ IsDecCommand i := by
  cases i with
  | encInit | encDirect _ | encBit _ _ | encFlush => exact id
  | pInc _ | pDec _ | decInit | decDirect | decBit _ | decAtend => exact h.elim

theorem acceptedIn_encInto {i : Instr} (hi : IsEncCommand i) (r s : State) : AcceptedIn i (encInto r s) ↔ AcceptedIn i s := by
  cases i with
  | encInit | encDirect _ | encBit _ _ | encFlush => exact Iff.rfl
  | pInc _ | pDec _ | decInit | decDirect | decBit _ | decAtend => exact hi.elim

theorem acceptedIn_decInto {i : Instr} (hi : IsDecCommand i) (r s : State) : AcceptedIn i (decInto r s) ↔ AcceptedIn i s := by
  cases i with
  | decInit | decDirect | decBit _ | decAtend => exact Iff.rfl
  | encInit | encDirect _ | encBit _ _ | encFlush | pInc _ | pDec _ => exact hi.elim

/-- R20: a command of ENC does to ENC's side put into any `r` what it does in `s`, and leaves the rest of `r`. -/
theorem commandRun_encInto {i : Instr} {s t : State} (h : CommandRun s i t) (hi : IsEncCommand i) (r : State) :
    CommandRun (encInto r s) i (encAnswered r s t) := by
  cases h with
  | illegal hw => exact respond_encInto r s _ _ _ ▸ .illegal hw
  | outOfPhase hw ha => exact respond_encInto r s _ _ _ ▸ .outOfPhase hw (mt (acceptedIn_encInto hi r s).1 ha)
  | encInit => exact respond_encInto r (encSessionStart s) .ok false 0#11 ▸ .encInit
  | encBit c hl hr => exact commandEnd_encInto c.newP (encWork_encInto c) r s ▸ .encBit c hl hr
  | encFlush hr => exact commandEnd_encInto 0#11 flushWork_encInto r s ▸ .encFlush hr
  | decBit c hl hr => exact absurd (isDecCommand_decCommand c) (not_isDecCommand_of_isEncCommand hi)
  | pInc _ | pDec _ | decInit | decAtend _ => exact hi.elim

theorem commandRun_decInto {i : Instr} {s t : State} (h : CommandRun s i t) (hi : IsDecCommand i) (r : State) :
    CommandRun (decInto r s) i (decAnswered r s t) := by
  cases h with
  | illegal hw => exact respond_decInto r s _ _ _ ▸ .illegal hw
  | outOfPhase hw ha => exact respond_decInto r s _ _ _ ▸ .outOfPhase hw (mt (acceptedIn_decInto hi r s).1 ha)
  | decInit => exact commandEnd_decInto 0#11 decInitWork_decInto r s ▸ .decInit
  | decBit c hl hr => exact commandEnd_decInto _ (decWork_decInto c) r s ▸ .decBit c hl hr
  | decAtend hr => exact respond_decInto r s _ _ _ ▸ .decAtend hr
  | encBit c hl hr => exact absurd hi (not_isDecCommand_of_isEncCommand (isEncCommand_encCommand c))
  | pInc _ | pDec _ | encInit | encFlush _ => exact hi.elim

end Sys2Proof.Machine
end

section
/-! PROOFS. What a command leaves alone and what it does not read (10_state.md R20, R29, R37): O39, O40, O41. -/

namespace Sys2Proof.Machine

/-! ### The parameter -/

/-- What two pieces of work keep, their sequence keeps. -/
theorem andThen_keeps {α β γ : Type} (f : State → γ) {s : State} {x : Flow α} {k : α → State → Flow β}
    (hx : f x.state = f s) (hk : ∀ a t, f (k a t).state = f t) : f (andThen x k).state = f s := by
  cases x with
  | go a t => exact (hk a t).trans hx
  | raise e t => exact hx

/-- EncNormalize is a frame but for the range it may shift. -/
theorem encNormalize_frame (s : State) : ∃ r, EncWorkFrame (s.setEnc { s.enc with range := r }) (encNormalize s).state := by
  obtain ⟨-, e⟩ | ⟨-, e⟩ := encNormalize_cases s <;> rw [e]
  · exact ⟨s.enc.range, .refl s⟩
  · exact ⟨_, shiftLow_frame _⟩

theorem sinkFlush_config (s : State) : (sinkFlush s).state.config = s.config := by
  obtain ⟨-, e⟩ | ⟨-, e⟩ := sinkFlush_cases s <;> rw [e] <;> rfl

theorem encWork_config (c : CodedBit) (s : State) : (c.encWork s).state.config = s.config := by
  obtain ⟨r, h⟩ := encNormalize_frame (s.setEnc (c.narrow s.enc))
  exact andThen_keeps State.config h.config fun _ _ => rfl

theorem flushWork_config (s : State) : (flushWork s).state.config = s.config :=
  andThen_keeps State.config (shiftLowRepeat_frame _ s).config fun _ t =>
    andThen_keeps State.config (sinkFlush_config t) fun _ _ => rfl

theorem commandEnd_config (u : CoderUnit) (q : Prob) (x : Flow (Bool × Prob)) :
    (commandEnd u q x).config = x.state.config := by
  cases x with
  | go a s => rfl
  | raise f s => exact takeFatal_config u f q s

/-! ### The frame of a command -/

theorem CommandRun.unique {i : Instr} {s t u : State} (ht : CommandRun s i t) (hu : CommandRun s i u) : t = u := by
  cases ht.exec_eq.symm.trans hu.exec_eq
  rfl

/-- A command of ENC changes only ENC's side and the responses. -/
theorem CommandRun.eq_encAnswered {i : Instr} {s t : State} (h : CommandRun s i t) (hi : IsEncCommand i) :
    t = encAnswered s s t :=
  h.unique (commandRun_encInto h hi s)

/-- A command of DEC changes only DEC's side and the responses. -/
theorem CommandRun.eq_decAnswered {i : Instr} {s t : State} (h : CommandRun s i t) (hi : IsDecCommand i) :
    t = decAnswered s s t :=
  h.unique (commandRun_decInto h hi s)

/-- A command of neither unit, a cell command, gives one and the same response in every state (R105, R106). -/
theorem exec_cellCommand {i : Instr} (he : ¬ IsEncCommand i) (hd : ¬ IsDecCommand i) :
    ∃ st bit p, ∀ s, exec i s = .next (s.respond st bit p) := by
  cases i with
  | pInc p =>
    by_cases hp : p = 0#11
    · subst hp; exact ⟨_, _, _, fun s => rfl⟩
    · exact ⟨_, _, _, fun s => whenCellLegal_legal hp s _⟩
  | pDec p =>
    by_cases hp : p = 0#11
    · subst hp; exact ⟨_, _, _, fun s => rfl⟩
    · exact ⟨_, _, _, fun s => whenCellLegal_legal hp s _⟩
  | encInit | encDirect _ | encBit _ _ | encFlush => exact absurd trivial he
  | decInit | decDirect | decBit _ | decAtend => exact absurd trivial hd

theorem CommandRun.eq_of_cellCommand {i : Instr} {s t : State} (h : CommandRun s i t) (he : ¬ IsEncCommand i)
    (hd : ¬ IsDecCommand i) : t = { s with responses := t.responses } := by
  obtain ⟨st, bit, p, hx⟩ := exec_cellCommand he hd
  rw [h.unique (exec_eq_next_iff.1 (hx s))]
  rfl

theorem CommandRun.enc_eq {i : Instr} {s t : State} (h : CommandRun s i t) (hi : ¬ IsEncCommand i) : t.enc = s.enc := by
  by_cases hd : IsDecCommand i
  · rw [h.eq_decAnswered hd]; rfl
  · rw [h.eq_of_cellCommand hi hd]

theorem CommandRun.dec_eq {i : Instr} {s t : State} (h : CommandRun s i t) (hi : ¬ IsDecCommand i) : t.dec = s.dec := by
  by_cases he : IsEncCommand i
  · rw [h.eq_encAnswered he]; rfl
  · rw [h.eq_of_cellCommand he hi]

theorem CommandRun.moves_eq {i : Instr} {s t : State} (h : CommandRun s i t) : t.moves = s.moves := by
  by_cases he : IsEncCommand i
  · rw [h.eq_encAnswered he]; rfl
  by_cases hd : IsDecCommand i
  · rw [h.eq_decAnswered hd]; rfl
  · rw [h.eq_of_cellCommand he hd]

theorem CommandRun.config_eq {i : Instr} {s t : State} (h : CommandRun s i t) : t.config = s.config := by
  by_cases hd : IsDecCommand i
  · rw [h.eq_decAnswered hd]; rfl
  · cases h with
    | illegal _ | outOfPhase _ _ | pInc _ | pDec _ | encInit => rfl
    | encBit c _ _ => exact (commandEnd_config ..).trans (encWork_config c s)
    | encFlush _ => exact (commandEnd_config ..).trans (flushWork_config s)
    | decBit c _ _ => exact absurd (isDecCommand_decCommand c) hd
    | decInit | decAtend _ => exact absurd trivial hd

/-- Settles O39: a command is the commuting map of its own side, so the other side is left as it was. -/
theorem commandsLeaveTheOtherUnitAlone : Obligations.CommandsLeaveTheOtherUnitAlone := by
  intro i s t hx
  have h := exec_eq_next_iff.1 hx
  refine ⟨fun he => ?_, fun hd => ?_, h.eq_of_cellCommand, h.moves_eq, h.config_eq⟩
  · rw [h.eq_encAnswered he]
    exact ⟨rfl, rfl, rfl⟩
  · rw [h.eq_decAnswered hd]
    exact ⟨rfl, rfl, rfl⟩

/-! ### The units do not see each other -/

theorem encInto_of_agree {r s : State} (he : r.enc = s.enc) (hk : r.sink = s.sink) (hc : r.config = s.config)
    (hn : r.freeEncCount = s.freeEncCount) : encInto r s = r := by
  rw [encInto, ← he, ← hk, ← hc, ← hn]

theorem decInto_of_agree {r s : State} (hd : r.dec = s.dec) (hk : r.source = s.source)
    (hn : r.freeDecCount = s.freeDecCount) : decInto r s = r := by
  rw [decInto, ← hd, ← hk, ← hn]

/-- Settles O40: the state that agrees on a side is the one with that side put in, and the unit's commands commute with that. -/
theorem unitsCannotSeeEachOther : Obligations.UnitsCannotSeeEachOther := by
  intro i s s' t hx
  have h := exec_eq_next_iff.1 hx
  refine ⟨fun hi he hk hc hn => ?_, fun hi hd hk hn => ?_⟩
  · have h' := commandRun_encInto h hi s'
    rw [encInto_of_agree he hk hc hn] at h'
    exact ⟨_, h'.exec_eq, rfl, rfl, rfl, responsesSince_encAnswered s' s t, rfl, rfl⟩
  · have h' := commandRun_decInto h hi s'
    rw [decInto_of_agree hd hk hn] at h'
    exact ⟨_, h'.exec_eq, rfl, rfl, rfl, responsesSince_decAnswered s' s t, rfl, rfl⟩

/-! ### A FAILED unit's registers -/

theorem encReady_of_acceptedIn {i : Instr} (hi : IsEncCommand i) (hne : i ≠ .encInit) {s : State} (ha : AcceptedIn i s) :
    s.enc.phase = .ready := by
  cases i with
  | encInit => exact absurd rfl hne
  | encDirect _ | encBit _ _ | encFlush => exact ha
  | pInc _ | pDec _ | decInit | decDirect | decBit _ | decAtend => exact hi.elim

theorem decReady_of_acceptedIn {i : Instr} (hi : IsDecCommand i) (hne : i ≠ .decInit) {s : State} (ha : AcceptedIn i s) :
    s.dec.phase = .ready := by
  cases i with
  | decInit => exact absurd rfl hne
  | decDirect | decBit _ | decAtend => exact ha
  | encInit | encDirect _ | encBit _ _ | encFlush | pInc _ | pDec _ => exact hi.elim

/-- A command of ENC other than ENC.INIT gives one and the same refusal in every state where ENC is not READY (R232). -/
theorem exec_encCommand_refused {i : Instr} (hi : IsEncCommand i) (hne : i ≠ .encInit) :
    ∃ st, ∀ s : State, s.enc.phase ≠ .ready → exec i s = .next (s.respond st false 0#11) := by
  cases hw : i.wf with
  | false => exact ⟨_, fun s _ => exec_of_not_wf hw s⟩
  | true => exact ⟨_, fun s hs => exec_of_not_accepted hw (mt (encReady_of_acceptedIn hi hne) hs)⟩

/-- A command of DEC other than DEC.INIT gives one and the same refusal in every state where DEC is not READY (R232). -/
theorem exec_decCommand_refused {i : Instr} (hi : IsDecCommand i) (hne : i ≠ .decInit) :
    ∃ st, ∀ s : State, s.dec.phase ≠ .ready → exec i s = .next (s.respond st false 0#11) := by
  cases hw : i.wf with
  | false => exact ⟨_, fun s _ => exec_of_not_wf hw s⟩
  | true => exact ⟨_, fun s hs => exec_of_not_accepted hw (mt (decReady_of_acceptedIn hi hne) hs)⟩

/-- A command not of ENC commutes with any change of ENC's registers. -/
theorem exec_setEnc {i : Instr} {s t : State} (hi : ¬ IsEncCommand i) (hx : exec i s = .next t) (e : EncUnit) :
    exec i (s.setEnc e) = .next (t.setEnc e) := by
  by_cases hd : IsDecCommand i
  · have h := exec_eq_next_iff.1 hx
    rw [h.eq_decAnswered hd]
    exact (commandRun_decInto h hd (s.setEnc e)).exec_eq
  · obtain ⟨st, bit, p, hs⟩ := exec_cellCommand hi hd
    cases (hs s).symm.trans hx
    exact hs (s.setEnc e)

/-- A command not of DEC commutes with any change of DEC's registers. -/
theorem exec_setDec {i : Instr} {s t : State} (hi : ¬ IsDecCommand i) (hx : exec i s = .next t) (d : DecUnit) :
    exec i (s.setDec d) = .next (t.setDec d) := by
  by_cases he : IsEncCommand i
  · have h := exec_eq_next_iff.1 hx
    rw [h.eq_encAnswered he]
    exact (commandRun_encInto h he (s.setDec d)).exec_eq
  · obtain ⟨st, bit, p, hs⟩ := exec_cellCommand he hi
    cases (hs s).symm.trans hx
    exact hs (s.setDec d)

theorem exec_setEnc_of_failed {i : Instr} {s t : State} {e : EncUnit} (hne : i ≠ .encInit) (hs : s.enc.phase = .failed)
    (he : e.phase = .failed) (hx : exec i s = .next t) : exec i (s.setEnc e) = .next (t.setEnc e) := by
  by_cases hi : IsEncCommand i
  · obtain ⟨st, hr⟩ := exec_encCommand_refused hi hne
    cases (hr s (by simp [hs])).symm.trans hx
    exact hr (s.setEnc e) (by simp [he])
  · exact exec_setEnc hi hx e

theorem exec_setDec_of_failed {i : Instr} {s t : State} {d : DecUnit} (hne : i ≠ .decInit) (hs : s.dec.phase = .failed)
    (hd : d.phase = .failed) (hx : exec i s = .next t) : exec i (s.setDec d) = .next (t.setDec d) := by
  by_cases hi : IsDecCommand i
  · obtain ⟨st, hr⟩ := exec_decCommand_refused hi hne
    cases (hr s (by simp [hs])).symm.trans hx
    exact hr (s.setDec d) (by simp [hd])
  · exact exec_setDec hi hx d

/-- DEC.INIT overwrites the two registers, and keeps only the phase of the DEC it finds (R181, R239). -/
theorem decSessionStart_setDec {s : State} {d : DecUnit} (h : d.phase = s.dec.phase) :
    decSessionStart (s.setDec d) = decSessionStart s := by
  simp [decSessionStart, h]

theorem exec_decInit_setDec {s : State} {d : DecUnit} (h : d.phase = s.dec.phase) :
    exec .decInit (s.setDec d) = exec .decInit s := by
  rw [exec_decInit, exec_decInit, decInitWork, decInitWork, decSessionStart_setDec h]

/-- Settles O41: the unit's own commands refuse alike or overwrite the registers, and every other command commutes with the change. -/
theorem failedRegistersAreNeverRead : Obligations.FailedRegistersAreNeverRead := by
  refine ⟨fun i s t e hs he hx => ⟨?_, fun hne => exec_setEnc_of_failed hne hs he hx⟩,
    fun i s t d hs hd hx => ⟨?_, fun hne => exec_setDec_of_failed hne hs hd hx⟩⟩
  · rintro rfl
    exact hx
  · rintro rfl
    exact (exec_decInit_setDec (hd.trans hs.symm)).trans hx

end Sys2Proof.Machine
end

section
/-! PROOFS. What one command can do to a unit's registers: `EncEffect` and `DecEffect` say it once, in the terms of Safety.lean, and
the invariants and the phase changes are read off them. -/

namespace Sys2Proof.Machine

theorem andThen_eq_go {α β : Type} {x : Flow α} {k : α → State → Flow β} {b : β} {u : State}
    (h : andThen x k = .go b u) : ∃ a t, x = .go a t ∧ k a t = .go b u := by
  cases x with
  | go a t => exact ⟨a, t, rfl, h⟩
  | raise f t => cases h

/-! ### ShiftLow and EncNormalize that raise nothing -/

theorem takesFlushPath_iff (e : EncUnit) : takesFlushPath e = true ↔ ¬ Defers e := by
  have hc : carry e = decide (2 ^ 32 ≤ e.low.toNat) := BitVec.msb_eq_decide e.low
  have hl : (low32 e).toNat = e.low.toNat % 2 ^ 32 := by
    simp only [low32, BitVec.extractLsb'_toNat, Nat.shiftRight_zero]
  rw [takesFlushPath, Bool.or_eq_true, hc, decide_eq_true_iff, decide_eq_true_iff, BitVec.lt_def, hl]
  have : (0xFF000000#32).toNat = 0xFF000000 := rfl
  omega

theorem shiftedLow_eq (l : Low) : (l.extractLsb' 0 24).setWidth 33 <<< 8 = BitVec.ofNat 33 (l.toNat % 2 ^ 24 * 2 ^ 8) := by
  apply BitVec.eq_of_toNat_eq
  simp only [BitVec.toNat_shiftLeft, BitVec.toNat_setWidth, BitVec.extractLsb'_toNat, BitVec.toNat_ofNat,
    Nat.shiftRight_zero, Nat.shiftLeft_eq]
  omega

theorem rangeShifted_eq (e : EncUnit) : { e with range := e.range <<< 8 } = rangeShifted e := by
  have h : e.range <<< 8 = BitVec.ofNat 32 (e.range.toNat * 2 ^ 8) := by
    apply BitVec.eq_of_toNat_eq
    simp only [BitVec.toNat_shiftLeft, BitVec.toNat_ofNat, Nat.shiftLeft_eq]
  rw [rangeShifted, h]

theorem eq_maxCacheSize_iff (c : Config) (n : Nat) : n = c.maxCacheSize ↔ n + 1 = 2 ^ c.wCS := by
  have := Nat.two_pow_pos c.wCS
  rw [Config.maxCacheSize]
  omega

theorem nextCache_eq (l : Low) : l.extractLsb' 24 8 = BitVec.ofNat 8 (l.toNat % 2 ^ 32 / 2 ^ 24) := by
  apply BitVec.eq_of_toNat_eq
  simp only [BitVec.extractLsb'_toNat, BitVec.toNat_ofNat, Nat.shiftRight_eq_div_pow]
  omega

theorem countAndShift_go {s t : State} (h : countAndShift s = .go () t) :
    s.enc.cacheSize + 1 ≠ 2 ^ s.config.wCS ∧
    t.enc = { s.enc with
      cacheSize := s.enc.cacheSize + 1
      low := BitVec.ofNat 33 (s.enc.low.toNat % 2 ^ 24 * 2 ^ 8) } := by
  obtain ⟨-, e⟩ | ⟨hc, e⟩ := countAndShift_cases s <;> rw [e] at h <;> cases h
  rw [← shiftedLow_eq]
  exact ⟨mt (eq_maxCacheSize_iff ..).2 hc, rfl⟩

theorem shiftLow_go {s t : State} (h : shiftLow s = .go () t) : CountFits s.config s.enc ∧ t.enc = shifted s.enc := by
  by_cases hd : Defers s.enc
  · rw [shiftLow, if_neg (mt (takesFlushPath_iff _).1 (not_not.2 hd))] at h
    obtain ⟨hc, ht⟩ := countAndShift_go h
    simp only [CountFits, shifted, if_pos hd]
    exact ⟨hc, ht⟩
  · rw [shiftLow, if_pos ((takesFlushPath_iff _).2 hd)] at h
    split at h
    · cases h
    · rename_i hz
      obtain ⟨_, u, hu, h⟩ := andThen_eq_go h
      have hf := hu ▸ writeHeldBytes_frame s
      have he : u.enc = s.enc := by
        obtain ⟨v, e, hv, -⟩ | ⟨v, e, -⟩ := writeHeldBytes_cases s <;> cases e.symm.trans hu
        exact hv
      obtain ⟨hc, ht⟩ := countAndShift_go h
      simp only [CountFits, shifted, if_neg hd]
      simp only [holdBackNext, setEnc_enc, setEnc_config, he, nextCache_eq, Nat.zero_add] at hc ht
      exact ⟨⟨hz, hf.config ▸ hc⟩, ht⟩

theorem shiftLowRepeat_go {n : Nat} {s t : State} (h : shiftLowRepeat n s = .go () t) :
    ShiftsFit s.config n s.enc ∧ t.enc = afterShifts n s.enc := by
  induction n generalizing s with
  | zero => cases h; exact ⟨fun k hk => absurd hk k.not_lt_zero, rfl⟩
  | succ n ih =>
    obtain ⟨_, u, hu, h⟩ := andThen_eq_go h
    have hf := hu ▸ shiftLow_frame s
    obtain ⟨hc, he⟩ := shiftLow_go hu
    obtain ⟨hs, ht⟩ := ih h
    rw [shiftsFit_succ, afterShifts_succ, ← he]
    exact ⟨⟨hc, hf.config ▸ hs⟩, ht⟩

theorem encNormalize_go {s t : State} (h : encNormalize s = .go () t) :
    (NeedsShift s.enc.range → CountFits s.config s.enc) ∧ t.enc = normalized s.enc := by
  obtain ⟨hn, e⟩ | ⟨hn, e⟩ := encNormalize_cases s <;> rw [e] at h
  · cases h
    exact ⟨fun h => absurd h hn, (if_neg hn).symm⟩
  · rw [rangeShifted_eq] at h
    obtain ⟨hc, ht⟩ := shiftLow_go h
    exact ⟨fun _ => hc, ht.trans (if_pos hn).symm⟩

theorem sinkFlush_enc (s : State) : (sinkFlush s).state.enc = s.enc := by
  obtain ⟨-, e⟩ | ⟨-, e⟩ := sinkFlush_cases s <;> rw [e] <;> rfl

theorem encWork_go {c : CodedBit} {s t : State} {a : Bool × Prob} (h : c.encWork s = .go a t) :
    (NeedsShift (c.narrow s.enc).range → CountFits s.config (c.narrow s.enc)) ∧ t.enc = normalized (c.narrow s.enc) := by
  obtain ⟨_, u, hu, h⟩ := andThen_eq_go h
  cases h
  exact encNormalize_go hu

theorem flushWork_go {s t : State} {a : Bool × Prob} (h : flushWork s = .go a t) :
    a = (false, 0#11) ∧ ShiftsFit s.config 5 s.enc ∧ t.enc = { afterShifts 5 s.enc with phase := .flushed } := by
  obtain ⟨_, u, hu, h⟩ := andThen_eq_go h
  obtain ⟨_, v, hv, h⟩ := andThen_eq_go h
  obtain ⟨hs, he⟩ := shiftLowRepeat_go hu
  have hv := hv ▸ sinkFlush_enc u
  cases h
  exact ⟨rfl, hs, by rw [setEnc_enc, ← he, ← hv]; rfl⟩

/-! ### DecNormalize and the header that raise nothing -/

/-- What DecNormalize makes of DEC when it raises nothing (R180). -/
def DecNormalizesTo (d d' : DecUnit) : Prop :=
  (¬ NeedsShift d.range ∧ d' = d) ∨ (NeedsShift d.range ∧ ∃ v, d' = readIn d v)

theorem foldedCode_eq (code : Word) (v : Byte) :
    code <<< 8 ||| v.setWidth 32 = BitVec.ofNat 32 (code.toNat % 2 ^ 24 * 2 ^ 8 + v.toNat) := by
  have hv : v.toNat < 2 ^ 8 := v.isLt
  have hc : code.toNat * 2 ^ 8 % 2 ^ 32 = code.toNat % 2 ^ 24 * 2 ^ 8 := by omega
  apply BitVec.eq_of_toNat_eq
  simp only [BitVec.toNat_or, BitVec.toNat_shiftLeft, BitVec.toNat_setWidth, BitVec.toNat_ofNat, Nat.shiftLeft_eq, hc]
  rw [Nat.mod_eq_of_lt (hv.trans (by decide)), ← Nat.shiftLeft_eq, ← Nat.shiftLeft_add_eq_or_of_lt hv, Nat.shiftLeft_eq]
  omega

theorem decNormalize_go {s t : State} (h : decNormalize s = .go () t) : DecNormalizesTo s.dec t.dec := by
  by_cases hn : s.dec.range < Config.top
  · rw [decNormalize, if_pos hn] at h
    obtain ⟨v, u, hu, h⟩ := andThen_eq_go h
    have hr : s.dec.range <<< 8 = BitVec.ofNat 32 (s.dec.range.toNat * 2 ^ 8) := by
      apply BitVec.eq_of_toNat_eq
      simp only [BitVec.toNat_shiftLeft, BitVec.toNat_ofNat, Nat.shiftLeft_eq]
    obtain ⟨w, -, e⟩ | ⟨-, e⟩ | ⟨-, e⟩ := sourceRead_cases (s.setDec { s.dec with range := s.dec.range <<< 8 }) <;>
      cases e.symm.trans hu
    cases h
    refine .inr ⟨hn, v, ?_⟩
    simp only [foldByte, setDec_dec, setSource_dec, foldedCode_eq, hr, readIn]
  · rw [decNormalize, if_neg hn] at h
    cases h
    exact .inl ⟨hn, rfl⟩

theorem sourceRead_dec (s : State) : (sourceRead s).state.dec = s.dec := by
  obtain ⟨v, -, e⟩ | ⟨-, e⟩ | ⟨-, e⟩ := sourceRead_cases s <;> rw [e] <;> rfl

theorem readLeadingZero_range (s : State) : (readLeadingZero s).state.dec.range = s.dec.range :=
  andThen_keeps (fun s => s.dec.range) (congrArg DecUnit.range (sourceRead_dec s)) fun v t => by
    by_cases hv : v = 0x00#8 <;> simp [hv]

theorem readCodeBytes_range (n : Nat) (s : State) : (readCodeBytes n s).state.dec.range = s.dec.range := by
  induction n generalizing s with
  | zero => rfl
  | succ n ih =>
    exact andThen_keeps (fun s => s.dec.range) (congrArg DecUnit.range (sourceRead_dec s)) fun v t => ih (foldByte v t)

theorem checkCode_state (s : State) : (checkCode s).state = s := by
  by_cases h : s.dec.range ≤ s.dec.code <;> simp [checkCode, h]

theorem decInitWork_go {s t : State} {a : Bool × Prob} (h : decInitWork s = .go a t) :
    a = (false, 0#11) ∧ t.dec.phase = .ready ∧ t.dec.range = Config.rangeInit := by
  obtain ⟨_, u, hu, h⟩ := andThen_eq_go h
  obtain ⟨_, v, hv, h⟩ := andThen_eq_go h
  obtain ⟨_, w, hw, h⟩ := andThen_eq_go h
  have hu := hu ▸ readLeadingZero_range (decSessionStart s)
  have hv := hv ▸ readCodeBytes_range 4 u
  have hw := hw ▸ checkCode_state v
  cases h
  exact ⟨rfl, rfl, (congrArg (fun s => s.dec.range) hw).trans (hv.trans hu)⟩

theorem decWork_go {c : CodedBit} {s t : State} {a : Bool × Prob} (h : c.decWork s = .go a t) :
    DecNormalizesTo (c.decoded s.dec).2 t.dec := by
  obtain ⟨_, u, hu, h⟩ := andThen_eq_go h
  cases h
  exact decNormalize_go hu

/-! ### The two effects -/

theorem responseWord_status (st : Status) (bit : Bool) (p : Prob) : (responseWord st bit p).toNat % 8 = statusCode st := by
  have hst : statusCode st < 8 := by cases st <;> decide
  have hp := p.isLt
  simp only [responseWord, BitVec.toNat_ofNat]
  cases bit <;> simp only [Bool.toNat_true, Bool.toNat_false] <;> omega

theorem three_le_fatalStatus (f : Fatal) : 3 ≤ statusCode (fatalStatus f) := by cases f <;> decide

/-- The step from `s` to `t` delivered a response with a fatal status (R237). -/
def AnswersFatal (s t : State) : Prop := ∃ r, t.responses = s.responses ++ [r] ∧ 3 ≤ r.toNat % 8

theorem answersFatal_takeFatal {s t : State} (h : t.responses = s.responses) (u : CoderUnit) (f : Fatal) (q : Prob) :
    AnswersFatal s (takeFatal u f q t) :=
  ⟨_, (takeFatal_responses u f q t).trans (by rw [h]), (responseWord_status ..).symm ▸ three_le_fatalStatus f⟩

/-- Everything one command can do to ENC. -/
inductive EncEffect (s : State) (i : Instr) (t : State) : Prop where
  | kept (h : t.enc = s.enc)
  | started (hi : i = .encInit) (he : t.enc = (encSessionStart s).enc) (hr : t.responses = s.responses ++ [0x0000#16])
  | coded (c : CodedBit) (hi : i = c.encCommand) (hp : s.enc.phase = .ready)
      (hf : NeedsShift (c.narrow s.enc).range → CountFits s.config (c.narrow s.enc))
      (he : t.enc = normalized (c.narrow s.enc))
  | flushed (hi : i = .encFlush) (hp : s.enc.phase = .ready) (hf : ShiftsFit s.config 5 s.enc)
      (he : t.enc = { afterShifts 5 s.enc with phase := .flushed }) (hr : t.responses = s.responses ++ [0x0000#16])
  | failed (hi : IsEncCommand i) (hp : s.enc.phase = .ready) (he : t.enc.phase = .failed)
      (hc : t.enc.cacheSize < 2 ^ s.config.wCS) (hr : AnswersFatal s t)

/-- Everything one command can do to DEC. -/
inductive DecEffect (s : State) (i : Instr) (t : State) : Prop where
  | kept (h : t.dec = s.dec)
  | started (hi : i = .decInit) (hp : t.dec.phase = .ready) (he : t.dec.range = Config.rangeInit)
      (hr : t.responses = s.responses ++ [0x0000#16])
  | decoded (c : CodedBit) (hi : i = c.decCommand) (hp : s.dec.phase = .ready)
      (he : DecNormalizesTo (c.decoded s.dec).2 t.dec)
  | failed (hi : IsDecCommand i) (ha : AcceptedIn i s) (he : t.dec.phase = .failed) (hr : AnswersFatal s t)

theorem takeFatal_enc_cacheSize (f : Fatal) (q : Prob) (s : State) :
    (takeFatal .enc f q s).enc.cacheSize < 2 ^ s.config.wCS :=
  Nat.mod_lt _ (Nat.two_pow_pos _)

/-- The work of a command of ENC that raised. -/
theorem encEffect_raise {i : Instr} {s t : State} {x : Flow (Bool × Prob)} {f : Fatal} (q : Prob) (hi : IsEncCommand i)
    (hp : s.enc.phase = .ready) (hx : x = .raise f t) (hc : x.state.config = s.config)
    (hr : x.state.responses = s.responses) : EncEffect s i (takeFatal .enc f q t) := by
  subst hx
  exact .failed hi hp rfl (hc ▸ takeFatal_enc_cacheSize f q t) (answersFatal_takeFatal hr ..)

theorem CommandRun.encEffect {i : Instr} {s t : State} (h : CommandRun s i t) : EncEffect s i t := by
  cases h with
  | illegal _ | outOfPhase _ _ | pInc _ | pDec _ | decAtend _ => exact .kept rfl
  | encInit => exact .started rfl rfl rfl
  | encBit c hl hp =>
    cases hx : c.encWork s with
    | go a u =>
      obtain ⟨hf, he⟩ := encWork_go hx
      exact .coded c rfl hp hf he
    | raise f u =>
      exact encEffect_raise _ (isEncCommand_encCommand c) hp hx (encWork_config c s)
        (responses_of_encInto (encWork_encInto c) s)
  | encFlush hp =>
    have hr := responses_of_encInto flushWork_encInto s
    cases hx : flushWork s with
    | go a u =>
      obtain ⟨rfl, hf, he⟩ := flushWork_go hx
      rw [hx, Flow.state_go] at hr
      exact .flushed rfl hp hf he (by rw [← hr]; rfl)
    | raise f u => exact encEffect_raise _ trivial hp hx (flushWork_config s) hr
  | decInit => exact .kept (CommandRun.decInit.enc_eq id)
  | decBit c hl hr =>
    exact .kept ((CommandRun.decBit c hl hr).enc_eq fun hi =>
      not_isDecCommand_of_isEncCommand hi (isDecCommand_decCommand c))

theorem CommandRun.decEffect {i : Instr} {s t : State} (h : CommandRun s i t) : DecEffect s i t := by
  cases h with
  | illegal _ | outOfPhase _ _ | pInc _ | pDec _ | encInit | decAtend _ => exact .kept rfl
  | encBit c hl hr =>
    exact .kept ((CommandRun.encBit c hl hr).dec_eq (not_isDecCommand_of_isEncCommand (isEncCommand_encCommand c)))
  | encFlush hr => exact .kept ((CommandRun.encFlush hr).dec_eq id)
  | decInit =>
    have hr := responses_of_decInto decInitWork_decInto s
    cases hx : decInitWork s with
    | go a u =>
      obtain ⟨rfl, hp, he⟩ := decInitWork_go hx
      rw [hx, Flow.state_go] at hr
      exact .started rfl hp he (by rw [← hr]; rfl)
    | raise f u =>
      rw [hx] at hr
      exact .failed trivial trivial rfl (answersFatal_takeFatal hr ..)
  | decBit c hl hp =>
    have hr := responses_of_decInto (decWork_decInto c) s
    have ha : AcceptedIn c.decCommand s := by cases c <;> exact hp
    cases hx : c.decWork s with
    | go a u =>
      have he := decWork_go hx
      exact .decoded c rfl hp he
    | raise f u =>
      rw [hx] at hr
      exact .failed (isDecCommand_decCommand c) ha rfl (answersFatal_takeFatal hr ..)

end Sys2Proof.Machine
end

section
/-! PROOFS. The only ways a step changes a phase (10_state.md R25, R28, R239): O38. -/

namespace Sys2Proof.Machine

@[simp] theorem normalized_phase (e : EncUnit) : (normalized e).phase = e.phase := by
  unfold normalized
  split <;> rfl

@[simp] theorem narrow_phase (c : CodedBit) (e : EncUnit) : (c.narrow e).phase = e.phase := rfl

theorem decoded_phase (c : CodedBit) (d : DecUnit) : (c.decoded d).2.phase = d.phase := by
  cases c with
  | direct b => rw [decoded_direct]
  | adaptive b p =>
    rw [decoded_adaptive]
    split <;> rfl

theorem DecNormalizesTo.phase_eq {d d' : DecUnit} (h : DecNormalizesTo d d') : d'.phase = d.phase := by
  obtain ⟨-, rfl⟩ | ⟨-, v, rfl⟩ := h <;> rfl

/-- R25: how a command can change ENC.phase. -/
theorem EncEffect.phase_change {i : Instr} {s t : State} (h : EncEffect s i t) (hne : t.enc.phase ≠ s.enc.phase) :
    ∃ r, t.responses = s.responses ++ [r] ∧
      ((i = .encInit ∧ t.enc.phase = .ready ∧ r = 0x0000#16) ∨
       (i = .encFlush ∧ s.enc.phase = .ready ∧ t.enc.phase = .flushed ∧ r = 0x0000#16) ∨
       (IsEncCommand i ∧ s.enc.phase = .ready ∧ t.enc.phase = .failed ∧ 3 ≤ r.toNat % 8)) := by
  cases h with
  | kept h => exact absurd (congrArg EncUnit.phase h) hne
  | started hi he hr => exact ⟨_, hr, .inl ⟨hi, by rw [he]; rfl, rfl⟩⟩
  | coded c hi hp hf he => exact absurd (by rw [he, normalized_phase, narrow_phase]) hne
  | flushed hi hp hf he hr => exact ⟨_, hr, .inr (.inl ⟨hi, hp, by rw [he], rfl⟩)⟩
  | failed hi hp he hc hr =>
    obtain ⟨r, hr, h3⟩ := hr
    exact ⟨r, hr, .inr (.inr ⟨hi, hp, he, h3⟩)⟩

/-- R28: how a command can change DEC.phase. -/
theorem DecEffect.phase_change {i : Instr} {s t : State} (h : DecEffect s i t) (hne : t.dec.phase ≠ s.dec.phase) :
    ∃ r, t.responses = s.responses ++ [r] ∧
      ((i = .decInit ∧ t.dec.phase = .ready ∧ r = 0x0000#16) ∨
       (i = .decInit ∧ t.dec.phase = .failed ∧ 3 ≤ r.toNat % 8) ∨
       (IsDecCommand i ∧ s.dec.phase = .ready ∧ t.dec.phase = .failed ∧ 3 ≤ r.toNat % 8)) := by
  cases h with
  | kept h => exact absurd (congrArg DecUnit.phase h) hne
  | started hi hp he hr => exact ⟨_, hr, .inl ⟨hi, hp, rfl⟩⟩
  | decoded c hi hp he => exact absurd (he.phase_eq.trans (decoded_phase c s.dec)) hne
  | failed hi ha he hr =>
    obtain ⟨r, hr, h3⟩ := hr
    by_cases hd : i = .decInit
    · exact ⟨r, hr, .inr (.inl ⟨hd, he, h3⟩)⟩
    · exact ⟨r, hr, .inr (.inr ⟨hi, decReady_of_acceptedIn hi hd ha, he, h3⟩)⟩

/-- Settles O38: reset, or one of the effects of a command on the unit. -/
theorem onlyTheseStepsChangeAPhase : Obligations.OnlyTheseStepsChangeAPhase := by
  intro s t hst
  obtain ⟨-, rfl⟩ | ⟨rest, hm, rfl⟩ | ⟨w, rest, e, -, -, rfl⟩ | ⟨w, rest, i, hm, hw, h⟩ := step_cases hst
  · exact ⟨fun h => absurd rfl h, fun h => absurd rfl h⟩
  · exact ⟨fun _ => .inl ⟨rfl, by rw [hm]; rfl⟩, fun _ => .inl ⟨rfl, by rw [hm]; rfl⟩⟩
  · exact ⟨fun h => absurd rfl h, fun h => absurd rfl h⟩
  · refine ⟨fun hne => .inr ?_, fun hne => .inr ?_⟩
    · obtain ⟨r, hr, hc⟩ := h.encEffect.phase_change hne
      exact ⟨w, rest, i, r, hm, hw, hr, hc⟩
    · obtain ⟨r, hr, hc⟩ := h.decEffect.phase_change hne
      exact ⟨w, rest, i, r, hm, hw, hr, hc⟩

end Sys2Proof.Machine
end

section
/-! PROOFS. The registers after reset and the encoder's invariant (10_state.md R34, R38; 41_encoder.md R141): O8, O25, O26. -/

namespace Sys2Proof.Machine

/-- Settles O8: the registers are what State.reset writes. -/
theorem resetRegisterValues : Obligations.ResetRegisterValues := ⟨rfl, rfl⟩

/-- Settles O25: every conjunct is a comparison of the reset values. -/
theorem encoderInvariantAtReset : Obligations.EncoderInvariantAtReset := by
  unfold Obligations.EncoderInvariantAtReset
  decide

/-! ### The widths of one bit -/

theorem CodedBit.zeroWidth_le (c : CodedBit) (r : Nat) : c.zeroWidth r ≤ r := by
  cases c with
  | direct b => exact Nat.div_le_self r 2
  | adaptive b p => exact div_mul_cell_le r p

theorem CodedBit.zeroWidth_add_oneWidth_le (c : CodedBit) (r : Nat) : c.zeroWidth r + c.oneWidth r ≤ r := by
  cases c with
  | direct b => simp only [CodedBit.zeroWidth, CodedBit.oneWidth]; omega
  | adaptive b p => exact (Nat.add_sub_cancel' (div_mul_cell_le r p)).le

/-! ### The bounds of a READY ENC -/

/-- What EncInv asks of a READY ENC's registers: R34 (a), (b) and claim J of R141 (c). -/
def EncBounds (e : EncUnit) : Prop :=
  e.low.toNat + e.range.toNat < 2 ^ 33 ∧ 1 ≤ e.cacheSize ∧ (e.cache = 0xFF#8 → e.low.toNat + e.range.toNat < 2 ^ 32)

theorem encInv_iff (s : State) : EncInv s ↔
    s.config.wf = true ∧ s.enc.cacheSize < 2 ^ s.config.wCS ∧ (s.enc.phase = .ready → EncBounds s.enc) := Iff.rfl

/-- The interval [low, low + range) only shrinks. -/
theorem narrow_low_add_range_le (c : CodedBit) (e : EncUnit) :
    (c.narrow e).low.toNat + (c.narrow e).range.toNat ≤ e.low.toNat + e.range.toNat := by
  have hz := c.zeroWidth_le e.range.toNat
  have hs := c.zeroWidth_add_oneWidth_le e.range.toNat
  simp only [CodedBit.narrow, BitVec.toNat_ofNat]
  split <;> omega

theorem encBounds_narrow {e : EncUnit} (h : EncBounds e) (c : CodedBit) : EncBounds (c.narrow e) := by
  obtain ⟨h33, hc, hJ⟩ := h
  have hle := narrow_low_add_range_le c e
  exact ⟨hle.trans_lt h33, hc, fun hcache => hle.trans_lt (hJ hcache)⟩

theorem toNat_rangeShifted {e : EncUnit} (h : NeedsShift e.range) :
    (rangeShifted e).range.toNat = e.range.toNat * 2 ^ 8 := by
  simp only [rangeShifted, BitVec.toNat_ofNat]
  omega

theorem shifted_cache_of_defers {e : EncUnit} (h : Defers e) : (shifted e).cache = e.cache := if_pos h

theorem shifted_cache_of_not_defers {e : EncUnit} (h : ¬ Defers e) :
    (shifted e).cache = BitVec.ofNat 8 (e.low.toNat % 2 ^ 32 / 2 ^ 24) := if_neg h

theorem shifted_cacheSize_of_defers {e : EncUnit} (h : Defers e) : (shifted e).cacheSize = e.cacheSize + 1 := if_pos h

theorem shifted_cacheSize_of_not_defers {e : EncUnit} (h : ¬ Defers e) : (shifted e).cacheSize = 1 := if_neg h

/-- Claim J of R141: a flushed cache byte is 0xFF only under a carry, and then low + range has no room left for a second one. -/
theorem encBounds_shifted {e : EncUnit} (h : EncBounds e) (hn : NeedsShift e.range) : EncBounds (shifted (rangeShifted e)) := by
  obtain ⟨h33, hc, hJ⟩ := h
  have hr : (shifted (rangeShifted e)).range.toNat = e.range.toNat * 2 ^ 8 := toNat_rangeShifted hn
  have hl : (shifted (rangeShifted e)).low.toNat = e.low.toNat % 2 ^ 24 * 2 ^ 8 := shifted_low_toNat _
  rw [EncBounds, hr, hl]
  refine ⟨by omega, one_le_shifted_cacheSize _, fun hcache => ?_⟩
  by_cases hd : Defers e
  · have hff : e.cache = 0xFF#8 := by rwa [shifted_cache_of_defers (e := rangeShifted e) hd] at hcache
    have := hJ hff
    omega
  · have hff : e.low.toNat % 2 ^ 32 / 2 ^ 24 = 0xFF := by
      rw [shifted_cache_of_not_defers (e := rangeShifted e) hd] at hcache
      have := congrArg BitVec.toNat hcache
      simp only [BitVec.toNat_ofNat, rangeShifted_low] at this
      omega
    omega

theorem encBounds_normalized {e : EncUnit} (h : EncBounds e) : EncBounds (normalized e) := by
  unfold normalized
  split
  · exact encBounds_shifted h ‹_›
  · exact h

/-! ### The count fits its width -/

theorem shifted_cacheSize_lt {c : Config} {e : EncUnit} (h : e.cacheSize < 2 ^ c.wCS) (hf : CountFits c e) :
    (shifted e).cacheSize < 2 ^ c.wCS := by
  have hpos := Nat.two_pow_pos c.wCS
  by_cases hd : Defers e
  · have hf : e.cacheSize + 1 ≠ 2 ^ c.wCS := by rwa [CountFits, if_pos hd] at hf
    rw [shifted_cacheSize_of_defers hd]
    omega
  · obtain ⟨-, hf⟩ : e.cacheSize ≠ 0 ∧ 1 ≠ 2 ^ c.wCS := by rwa [CountFits, if_neg hd] at hf
    rw [shifted_cacheSize_of_not_defers hd]
    omega

theorem normalized_cacheSize_lt {c : Config} {e : EncUnit} (h : e.cacheSize < 2 ^ c.wCS)
    (hf : NeedsShift e.range → CountFits c e) : (normalized e).cacheSize < 2 ^ c.wCS := by
  unfold normalized
  split
  · next hn => exact shifted_cacheSize_lt (e := rangeShifted e) h (hf hn)
  · exact h

theorem afterShifts_cacheSize_lt {c : Config} {n : Nat} {e : EncUnit} (h : e.cacheSize < 2 ^ c.wCS) (hf : ShiftsFit c n e) :
    (afterShifts n e).cacheSize < 2 ^ c.wCS := by
  induction n generalizing e with
  | zero => exact h
  | succ n ih =>
    obtain ⟨h1, hn⟩ := (shiftsFit_succ c n e).1 hf
    exact ih (shifted_cacheSize_lt h h1) hn

/-! ### Every step -/

theorem one_lt_two_pow_wCS {c : Config} (h : c.wf = true) : 1 < 2 ^ c.wCS := by
  have h2 : 2 ≤ c.wCS := of_decide_eq_true h
  exact Nat.one_lt_two_pow (by omega)

theorem encBounds_sessionStart (s : State) : EncBounds (encSessionStart s).enc := by
  change EncBounds { range := Config.rangeInit, low := 0#33, cache := 0x00#8, cacheSize := 1, phase := .ready }
  unfold EncBounds
  decide

theorem encInv_sessionStart {s t : State} (hw : s.config.wf = true) (hc : t.config = s.config)
    (he : t.enc = (encSessionStart s).enc) : EncInv t := by
  rw [encInv_iff, hc, he]
  exact ⟨hw, one_lt_two_pow_wCS hw, fun _ => encBounds_sessionStart s⟩

theorem encInv_commandRun {i : Instr} {s t : State} (hs : EncInv s) (h : CommandRun s i t) : EncInv t := by
  obtain ⟨hw, hsize, hb⟩ := (encInv_iff s).1 hs
  have hc := h.config_eq
  rw [encInv_iff, hc]
  refine ⟨hw, ?_⟩
  cases h.encEffect with
  | kept he => rw [he]; exact ⟨hsize, hb⟩
  | started hi he hr => exact (encInv_sessionStart hw hc he).2.imp_left fun h => hc ▸ h
  | coded c hi hp hf he =>
    have hn := encBounds_narrow (hb hp) c
    rw [he]
    exact ⟨normalized_cacheSize_lt hsize hf, fun _ => encBounds_normalized hn⟩
  | flushed hi hp hf he hr =>
    rw [he]
    exact ⟨afterShifts_cacheSize_lt hsize hf, fun h => nomatch h⟩
  | failed hi hp he hsize' hr => exact ⟨hsize', fun h => nomatch he.symm.trans h⟩

/-- Settles O26: a step resets ENC, runs one command, or leaves ENC alone. -/
theorem stepKeepsTheEncoderInvariant : Obligations.StepKeepsTheEncoderInvariant := by
  intro s t hs hst
  obtain ⟨-, rfl⟩ | ⟨rest, -, rfl⟩ | ⟨w, rest, e, -, -, rfl⟩ | ⟨w, rest, i, -, -, h⟩ := step_cases hst
  · exact hs
  · exact encInv_sessionStart (s := s) hs.1 rfl rfl
  · exact hs
  · exact encInv_commandRun (s := s.setMoves rest) hs h

end Sys2Proof.Machine
end

section
/-! PROOFS. The ranges stay wide (10_state.md R35), and code stays below range (R36; 42_decoder.md R182, R183): O27, O35. -/

namespace Sys2Proof.Machine

/-! ### The range after one bit -/

/-- The width of the bit's outcome `b`. -/
def CodedBit.width (c : CodedBit) (b : Bool) (r : Nat) : Nat := if b then c.oneWidth r else c.zeroWidth r

theorem CodedBit.width_le (c : CodedBit) (b : Bool) (r : Nat) : c.width b r ≤ r := by
  have hz := c.zeroWidth_add_oneWidth_le r
  unfold CodedBit.width
  split <;> omega

theorem toNat_ofNat_width (c : CodedBit) (b : Bool) (r : Word) : (BitVec.ofNat 32 (c.width b r.toNat)).toNat = c.width b r.toNat :=
  (BitVec.toNat_ofNat ..).trans (Nat.mod_eq_of_lt ((c.width_le b r.toNat).trans_lt r.isLt))

theorem toNat_narrow_range (c : CodedBit) (e : EncUnit) : (c.narrow e).range.toNat = c.width c.bit e.range.toNat :=
  toNat_ofNat_width c c.bit e.range

theorem decoded_range (c : CodedBit) (d : DecUnit) :
    (c.decoded d).2.range = BitVec.ofNat 32 (c.width (c.decoded d).1 d.range.toNat) := by
  cases c with
  | direct b =>
    simp only [CodedBit.decoded, directDecoded]
    split <;> rfl
  | adaptive b p =>
    simp only [CodedBit.decoded, adaptiveDecoded]
    split <;> rfl

theorem toNat_decoded_range (c : CodedBit) (d : DecUnit) :
    (c.decoded d).2.range.toNat = c.width (c.decoded d).1 d.range.toNat := by
  rw [decoded_range, toNat_ofNat_width]

/-- R35: with P in [8, 2040] neither outcome gets less than 2^16 of a range of 2^24 or more. -/
theorem two_pow_16_le_width {c : CodedBit} (hc : CellInBand c.encCommand) (b : Bool) {r : Nat} (hr : 2 ^ 24 ≤ r) :
    2 ^ 16 ≤ c.width b r := by
  have hz : 2 ^ 16 ≤ c.zeroWidth r ∧ 2 ^ 16 ≤ c.oneWidth r := by
    cases c with
    | direct b => exact ⟨show 2 ^ 16 ≤ r / 2 by omega, show 2 ^ 16 ≤ r / 2 by omega⟩
    | adaptive b p =>
      obtain ⟨h8, h2040⟩ : InBand p := hc
      have hlo := Nat.mul_le_mul_left (r / 2 ^ 11) h8
      have hhi := Nat.mul_le_mul_left (r / 2 ^ 11) h2040
      simp only [CodedBit.zeroWidth, CodedBit.oneWidth]
      omega
  unfold CodedBit.width
  split
  · exact hz.2
  · exact hz.1

theorem two_pow_24_le_normalized_range {e : EncUnit} (h : 2 ^ 16 ≤ e.range.toNat) : 2 ^ 24 ≤ (normalized e).range.toNat := by
  unfold normalized
  split
  · next hn =>
    rw [shifted_range, toNat_rangeShifted hn]
    omega
  · omega

theorem toNat_readIn_range {d : DecUnit} (h : NeedsShift d.range) (v : Byte) :
    (readIn d v).range.toNat = d.range.toNat * 2 ^ 8 := by
  simp only [readIn, BitVec.toNat_ofNat]
  omega

theorem DecNormalizesTo.two_pow_24_le_range {d d' : DecUnit} (h : DecNormalizesTo d d') (hd : 2 ^ 16 ≤ d.range.toNat) :
    2 ^ 24 ≤ d'.range.toNat := by
  obtain ⟨hn, rfl⟩ | ⟨hn, v, rfl⟩ := h
  · omega
  · rw [toNat_readIn_range hn]
    omega

/-! ### Ranges stay wide -/

theorem two_pow_24_le_rangeInit : 2 ^ 24 ≤ Config.rangeInit.toNat := by decide

theorem cellInBand_decCommand (c : CodedBit) : CellInBand c.decCommand ↔ CellInBand c.encCommand := by cases c <;> rfl

theorem EncEffect.range_wide {i : Instr} {s t : State} (h : EncEffect s i t) (hi : CellInBand i)
    (hs : s.enc.phase = .ready → 2 ^ 24 ≤ s.enc.range.toNat) (ht : t.enc.phase = .ready) : 2 ^ 24 ≤ t.enc.range.toNat := by
  cases h with
  | kept he => rw [he] at ht ⊢; exact hs ht
  | started _ he _ => rw [he]; exact two_pow_24_le_rangeInit
  | coded c hc hp hf he =>
    subst hc
    rw [he]
    apply two_pow_24_le_normalized_range
    rw [toNat_narrow_range]
    exact two_pow_16_le_width hi c.bit (hs hp)
  | flushed _ _ _ he _ => rw [he] at ht; cases ht
  | failed _ _ he _ _ => cases he.symm.trans ht

theorem DecEffect.range_wide {i : Instr} {s t : State} (h : DecEffect s i t) (hi : CellInBand i)
    (hs : s.dec.phase = .ready → 2 ^ 24 ≤ s.dec.range.toNat) (ht : t.dec.phase = .ready) : 2 ^ 24 ≤ t.dec.range.toNat := by
  cases h with
  | kept he => rw [he] at ht ⊢; exact hs ht
  | started _ _ he _ => rw [he]; exact two_pow_24_le_rangeInit
  | decoded c hc hp he =>
    subst hc
    apply he.two_pow_24_le_range
    rw [toNat_decoded_range]
    exact two_pow_16_le_width ((cellInBand_decCommand c).1 hi) _ (hs hp)
  | failed _ _ he _ => cases he.symm.trans ht

/-- Settles O27: either outcome keeps 2^16 of the range, and one normalization shift makes that 2^24. -/
theorem stepKeepsRangesWide : Obligations.StepKeepsRangesWide := by
  intro s t hs hband hst
  obtain ⟨-, rfl⟩ | ⟨rest, -, rfl⟩ | ⟨w, rest, e, -, -, rfl⟩ | ⟨w, rest, i, hm, hw, h⟩ := step_cases hst
  · exact hs
  · exact ⟨fun _ => two_pow_24_le_rangeInit, fun h => nomatch h⟩
  · exact hs
  · have hi := hband w rest i hm hw
    exact ⟨h.encEffect.range_wide hi hs.1, h.decEffect.range_wide hi hs.2⟩

/-! ### Code stays below range -/

/-- The normalization keeps code below range, since both are shifted and the byte read is below 2^8 (R180). -/
theorem DecNormalizesTo.code_lt_range {d d' : DecUnit} (h : DecNormalizesTo d d') (hd : d.code < d.range) :
    d'.code < d'.range := by
  obtain ⟨-, rfl⟩ | ⟨hn, v, rfl⟩ := h
  · exact hd
  · have hv := v.isLt
    rw [BitVec.lt_def] at hd ⊢
    rw [toNat_readIn_range hn]
    simp only [readIn, BitVec.toNat_ofNat]
    omega

/-- R182: with an even range the sign of `code - range / 2` says which half code lies in. -/
theorem directDecoded_code_lt_range {d : DecUnit} (he : d.range.toNat % 2 = 0) (hd : d.code < d.range) :
    (directDecoded d).2.code < (directDecoded d).2.range := by
  have hr := d.range.isLt
  rw [BitVec.lt_def] at hd ⊢
  by_cases ht : 2 ^ 31 ≤ (d.code.toNat + 2 ^ 32 - d.range.toNat / 2) % 2 ^ 32
  · simp only [directDecoded, if_pos ht, BitVec.toNat_ofNat]
    omega
  · simp only [directDecoded, if_neg ht, BitVec.toNat_ofNat]
    omega

/-- R183: the comparison with the bound says which part code lies in. -/
theorem adaptiveDecoded_code_lt_range {d : DecUnit} {p : Prob} (hd : d.code < d.range) :
    (adaptiveDecoded p d).2.code < (adaptiveDecoded p d).2.range := by
  have hle := div_mul_cell_le d.range.toNat p
  rw [BitVec.lt_def] at hd ⊢
  unfold adaptiveDecoded
  generalize d.range.toNat / 2 ^ 11 * p.toNat = bd at hle
  dsimp only
  split <;> simp only [BitVec.toNat_ofNat] <;> omega

/-- Of a coded bit DEC sees only its kind and its `p`. -/
theorem decoded_eq_of_decCommand_eq {c c' : CodedBit} (h : c.decCommand = c'.decCommand) (d : DecUnit) :
    c.decoded d = c'.decoded d := by
  rcases c with b | ⟨b, p⟩ <;> rcases c' with b' | ⟨b', p'⟩ <;> cases h <;> rfl

/-- A decoded bit keeps code below range when the choice of the bit does (R36). -/
theorem CommandRun.code_lt_range {c : CodedBit} {s t : State} (h : CommandRun s c.decCommand t) (hs : s.dec.code < s.dec.range)
    (hc : (c.decoded s.dec).2.code < (c.decoded s.dec).2.range) (ht : t.dec.phase = .ready) : t.dec.code < t.dec.range := by
  cases h.decEffect with
  | kept he => rwa [he]
  | started hi => cases c <;> cases hi
  | decoded c' hi _ he =>
    rw [decoded_eq_of_decCommand_eq hi] at hc
    exact he.code_lt_range hc
  | failed _ _ he _ => cases he.symm.trans ht

/-- Settles O35: the bit's part of the range holds code, and the normalization keeps it there. -/
theorem decodingKeepsCodeBelowRange : Obligations.DecodingKeepsCodeBelowRange := by
  refine ⟨fun p s t _ _ _ hs hx ht => ?_, fun s t _ heven hs hx ht => ?_⟩
  · exact CommandRun.code_lt_range (c := .adaptive false p) (exec_eq_next_iff.1 hx) hs (adaptiveDecoded_code_lt_range hs) ht
  · exact CommandRun.code_lt_range (c := .direct false) (exec_eq_next_iff.1 hx) hs (directDecoded_code_lt_range heven hs) ht

end Sys2Proof.Machine
end

section
/-! PROOFS. Both streams and the responses only move forward, and which commands move them (20_memory.md R50 to R54, R59): O42. -/

namespace Sys2Proof.Machine

/-! ### Forward on both streams -/

/-- From `s` to `t` the sink's stream only grows, the source's position only advances, and answers are only used up. -/
structure StreamsForward (s t : State) : Prop where
  written : s.sink.written <+: t.sink.written
  taken : s.source.taken ≤ t.source.taken
  sinkAnswers : t.sink.answers <:+ s.sink.answers
  sourceAnswers : t.source.answers <:+ s.source.answers

theorem StreamsForward.of_eq {s t : State} (hk : t.sink = s.sink) (hr : t.source = s.source) : StreamsForward s t := by
  constructor <;> simp [hk, hr]

theorem setEnc_forward (s : State) (e : EncUnit) : StreamsForward s (s.setEnc e) := .of_eq rfl rfl

theorem setDec_forward (s : State) (d : DecUnit) : StreamsForward s (s.setDec d) := .of_eq rfl rfl

theorem StreamsForward.trans {s t u : State} (h : StreamsForward s t) (k : StreamsForward t u) : StreamsForward s u :=
  ⟨h.written.trans k.written, h.taken.trans k.taken, k.sinkAnswers.trans h.sinkAnswers,
    k.sourceAnswers.trans h.sourceAnswers⟩

theorem andThen_forward {α β : Type} {s : State} {x : Flow α} {k : α → State → Flow β} (h : StreamsForward s x.state)
    (hk : ∀ a t, StreamsForward t (k a t).state) : StreamsForward s (andThen x k).state := by
  cases x with
  | go a t => exact h.trans (hk a t)
  | raise f t => exact h

/-! ### ENC's work -/

theorem sinkWrite_forward (b : Byte) (s : State) : StreamsForward s (sinkWrite b s).state := by
  have hw := (sinkWrite_frame b s).written
  obtain ⟨-, e⟩ | ⟨-, e⟩ := sinkWrite_cases b s <;> rw [e] at hw ⊢
  all_goals exact ⟨hw, le_rfl, List.tail_suffix _, List.suffix_rfl⟩

theorem sinkFlush_forward (s : State) : StreamsForward s (sinkFlush s).state := by
  obtain ⟨-, e⟩ | ⟨-, e⟩ := sinkFlush_cases s <;> rw [e]
  all_goals exact ⟨List.prefix_rfl, le_rfl, List.tail_suffix _, List.suffix_rfl⟩

theorem sinkWriteRepeat_forward (b : Byte) (n : Nat) (s : State) : StreamsForward s (sinkWriteRepeat b n s).state := by
  induction n generalizing s with
  | zero => exact .of_eq rfl rfl
  | succ n ih => exact andThen_forward (sinkWrite_forward b s) fun _ t => ih t

theorem writeHeldBytes_forward (s : State) : StreamsForward s (writeHeldBytes s).state :=
  andThen_forward (sinkWrite_forward _ s) fun _ t => sinkWriteRepeat_forward _ _ t

theorem countAndShift_forward (s : State) : StreamsForward s (countAndShift s).state := by
  obtain ⟨-, e⟩ | ⟨-, e⟩ := countAndShift_cases s <;> rw [e] <;> exact .of_eq rfl rfl

theorem shiftLow_forward (s : State) : StreamsForward s (shiftLow s).state := by
  unfold shiftLow
  split
  · split
    · exact .of_eq rfl rfl
    · exact andThen_forward (writeHeldBytes_forward s) fun _ t =>
        (setEnc_forward t _).trans (countAndShift_forward (holdBackNext t))
  · exact countAndShift_forward s

theorem shiftLowRepeat_forward (n : Nat) (s : State) : StreamsForward s (shiftLowRepeat n s).state := by
  induction n generalizing s with
  | zero => exact .of_eq rfl rfl
  | succ n ih => exact andThen_forward (shiftLow_forward s) fun _ t => ih t

theorem encNormalize_forward (s : State) : StreamsForward s (encNormalize s).state := by
  obtain ⟨-, e⟩ | ⟨-, e⟩ := encNormalize_cases s <;> rw [e]
  · exact .of_eq rfl rfl
  · exact (setEnc_forward s _).trans (shiftLow_forward _)

theorem encWork_forward (c : CodedBit) (s : State) : StreamsForward s (c.encWork s).state :=
  andThen_forward ((setEnc_forward s _).trans (encNormalize_forward _)) fun _ _ => .of_eq rfl rfl

theorem flushWork_forward (s : State) : StreamsForward s (flushWork s).state :=
  andThen_forward (shiftLowRepeat_forward _ s) fun _ t => andThen_forward (sinkFlush_forward t) fun _ u => setEnc_forward u _

/-! ### DEC's work -/

theorem sourceRead_forward (s : State) : StreamsForward s (sourceRead s).state := by
  have ht := (sourceRead_frame s).taken
  obtain ⟨v, -, e⟩ | ⟨-, e⟩ | ⟨-, e⟩ := sourceRead_cases s <;> rw [e] at ht ⊢
  all_goals exact ⟨List.prefix_rfl, ht, List.suffix_rfl, List.tail_suffix _⟩

theorem decNormalize_forward (s : State) : StreamsForward s (decNormalize s).state := by
  unfold decNormalize
  split
  · exact andThen_forward ((setDec_forward s _).trans (sourceRead_forward _)) fun v t => setDec_forward t _
  · exact .of_eq rfl rfl

theorem readLeadingZero_forward (s : State) : StreamsForward s (readLeadingZero s).state := by
  refine andThen_forward (sourceRead_forward s) fun v t => ?_
  split <;> exact .of_eq rfl rfl

theorem readCodeBytes_forward (n : Nat) (s : State) : StreamsForward s (readCodeBytes n s).state := by
  induction n generalizing s with
  | zero => exact .of_eq rfl rfl
  | succ n ih =>
    exact andThen_forward (sourceRead_forward s) fun v t => (setDec_forward t _).trans (ih (foldByte v t))

theorem checkCode_forward (s : State) : StreamsForward s (checkCode s).state := by
  rw [checkCode_state]
  exact .of_eq rfl rfl

theorem decWork_forward (c : CodedBit) (s : State) : StreamsForward s (c.decWork s).state :=
  andThen_forward ((setDec_forward s _).trans (decNormalize_forward _)) fun _ _ => .of_eq rfl rfl

theorem decInitWork_forward (s : State) : StreamsForward s (decInitWork s).state :=
  andThen_forward ((setDec_forward s _).trans (readLeadingZero_forward (decSessionStart s))) fun _ t =>
    andThen_forward (readCodeBytes_forward 4 t) fun _ u => andThen_forward (checkCode_forward u) fun _ v => setDec_forward v _

/-! ### Whole commands -/

theorem commandEnd_sink (u : CoderUnit) (q : Prob) (x : Flow (Bool × Prob)) : (commandEnd u q x).sink = x.state.sink := by
  cases x with
  | go a s => rfl
  | raise f s => exact takeFatal_sink u f q s

theorem commandEnd_source (u : CoderUnit) (q : Prob) (x : Flow (Bool × Prob)) : (commandEnd u q x).source = x.state.source := by
  cases x with
  | go a s => rfl
  | raise f s => exact takeFatal_source u f q s

theorem commandEnd_forward {s : State} (u : CoderUnit) (q : Prob) {x : Flow (Bool × Prob)} (h : StreamsForward s x.state) :
    StreamsForward s (commandEnd u q x) :=
  h.trans (.of_eq (commandEnd_sink u q x) (commandEnd_source u q x))

theorem CommandRun.streamsForward {i : Instr} {s t : State} (h : CommandRun s i t) : StreamsForward s t := by
  cases h with
  | illegal _ | outOfPhase _ _ | pInc _ | pDec _ | encInit | decAtend _ => exact .of_eq rfl rfl
  | encBit c _ _ => exact commandEnd_forward _ _ (encWork_forward c s)
  | encFlush _ => exact commandEnd_forward _ _ (flushWork_forward s)
  | decInit => exact commandEnd_forward _ _ (decInitWork_forward s)
  | decBit c _ _ => exact commandEnd_forward _ _ (decWork_forward c s)

theorem CommandRun.responses_prefix {i : Instr} {s t : State} (h : CommandRun s i t) : s.responses <+: t.responses := by
  by_cases he : IsEncCommand i
  · rw [h.eq_encAnswered he]
    exact List.prefix_append _ _
  by_cases hd : IsDecCommand i
  · rw [h.eq_decAnswered hd]
    exact List.prefix_append _ _
  · obtain ⟨st, bit, p, hx⟩ := exec_cellCommand he hd
    rw [h.unique (exec_eq_next_iff.1 (hx s))]
    exact List.prefix_append _ _

theorem CommandRun.sink_eq {i : Instr} {s t : State} (h : CommandRun s i t) (hi : ¬ IsEncCommand i) : t.sink = s.sink := by
  by_cases hd : IsDecCommand i
  · rw [h.eq_decAnswered hd]; rfl
  · rw [h.eq_of_cellCommand hi hd]

theorem CommandRun.source_eq {i : Instr} {s t : State} (h : CommandRun s i t) (hi : ¬ IsDecCommand i) :
    t.source = s.source := by
  by_cases he : IsEncCommand i
  · rw [h.eq_encAnswered he]; rfl
  · rw [h.eq_of_cellCommand he hi]

/-! ### Who moves a stream -/

theorem encWork_released (c : CodedBit) (s : State) : (c.encWork s).state.sink.released = s.sink.released := by
  obtain ⟨r, h⟩ := encNormalize_frame (s.setEnc (c.narrow s.enc))
  exact andThen_keeps (fun s => s.sink.released) h.released fun _ _ => rfl

/-- Only the acknowledged SinkFlush at the end of ENC.FLUSH releases bytes, and then all that are written (R52). -/
theorem flushWork_released (s : State) :
    (flushWork s).state.sink.released = s.sink.released ∨
      (flushWork s).state.sink.released = (flushWork s).state.sink.written.length := by
  have hs := (shiftLowRepeat_frame Config.flushShifts s).released
  unfold flushWork
  cases hx : shiftLowRepeat Config.flushShifts s with
  | raise f t => exact .inl (by rw [hx] at hs; exact hs)
  | go a t =>
    rw [hx] at hs
    rw [andThen_go]
    obtain ⟨-, e⟩ | ⟨-, e⟩ := sinkFlush_cases t <;> rw [e]
    · exact .inr rfl
    · exact .inl hs

/-- Everything a command can do to the sink, by command. -/
theorem CommandRun.sink_cases {i : Instr} {s t : State} (h : CommandRun s i t) :
    t.sink = s.sink ∨
    ((∃ c : CodedBit, i = c.encCommand) ∧ t.sink.released = s.sink.released) ∨
    (i = .encFlush ∧ (t.sink.released = s.sink.released ∨ t.sink.released = t.sink.written.length)) := by
  cases h with
  | illegal _ | outOfPhase _ _ | pInc _ | pDec _ | encInit | decAtend _ => exact .inl rfl
  | encBit c _ _ =>
    rw [commandEnd_sink]
    exact .inr (.inl ⟨⟨c, rfl⟩, encWork_released c s⟩)
  | encFlush _ =>
    rw [commandEnd_sink]
    exact .inr (.inr ⟨rfl, flushWork_released s⟩)
  | decInit => exact .inl (CommandRun.decInit.sink_eq id)
  | decBit c hl hr =>
    exact .inl ((CommandRun.decBit c hl hr).sink_eq fun hi =>
      not_isDecCommand_of_isEncCommand hi (isDecCommand_decCommand c))

/-- Everything a command can do to the source, by command. -/
theorem CommandRun.source_cases {i : Instr} {s t : State} (h : CommandRun s i t) :
    t.source = s.source ∨ i = .decInit ∨ ∃ c : CodedBit, i = c.decCommand := by
  cases h with
  | illegal _ | outOfPhase _ _ | pInc _ | pDec _ | encInit | decAtend _ => exact .inl rfl
  | encBit c hl hr =>
    exact .inl ((CommandRun.encBit c hl hr).source_eq (not_isDecCommand_of_isEncCommand (isEncCommand_encCommand c)))
  | encFlush hr => exact .inl ((CommandRun.encFlush hr).source_eq id)
  | decInit => exact .inr (.inl rfl)
  | decBit c _ _ => exact .inr (.inr ⟨c, rfl⟩)

theorem CommandRun.written_change {i : Instr} {s t : State} (h : CommandRun s i t) (hne : t.sink.written ≠ s.sink.written) :
    (∃ c : CodedBit, i = c.encCommand) ∨ i = .encFlush := by
  obtain hk | ⟨hc, -⟩ | ⟨hi, -⟩ := h.sink_cases
  · exact absurd (congrArg SinkPort.written hk) hne
  · exact .inl hc
  · exact .inr hi

theorem CommandRun.released_change {i : Instr} {s t : State} (h : CommandRun s i t)
    (hne : t.sink.released ≠ s.sink.released) : i = .encFlush ∧ t.sink.released = t.sink.written.length := by
  obtain hk | ⟨-, hr⟩ | ⟨hi, hr⟩ := h.sink_cases
  · exact absurd (congrArg SinkPort.released hk) hne
  · exact absurd hr hne
  · exact ⟨hi, hr.resolve_left hne⟩

/-- Settles O42: every command is forward on both streams, and the commands that change one are read off its cases. -/
theorem streamsOnlyMoveForward : Obligations.StreamsOnlyMoveForward := by
  intro i s t hx
  have h := exec_eq_next_iff.1 hx
  obtain ⟨hw, ht, hk, hr⟩ := h.streamsForward
  exact ⟨hw, ht, h.responses_prefix, hk, hr, h.written_change, h.released_change,
    fun hne => h.source_cases.resolve_left fun he => hne (congrArg SourcePort.taken he)⟩

end Sys2Proof.Machine
end

section
/-! PROOFS. The command word (30_encoding.md R70 to R79): the three fields determine the word, `decode_eq_ok_iff` and
`decode_eq_error_iff` say once which words the decoder accepts and rejects, and the match and mask table is read field by field:
O1, O2, O3, O4. -/

namespace Sys2Proof.Machine

open Sys2Proof.Laws

/-! ### The fields of a word -/

theorem opField_toNat (w : CommandWord) : (opField w).toNat = w.toNat % 16 := by
  simp only [opField, BitVec.extractLsb'_toNat, Nat.shiftRight_zero, Nat.reducePow]

theorem bField_eq_true_iff (w : CommandWord) : bField w = true ↔ w.toNat / 16 % 2 = 1 := by
  simp only [bField, BitVec.getLsbD, Nat.testBit_eq_decide_div_mod_eq, decide_eq_true_iff, Nat.reducePow]

theorem bField_toNat (w : CommandWord) : (bField w).toNat = w.toNat / 16 % 2 := by
  cases hb : bField w with
  | true => exact ((bField_eq_true_iff w).1 hb).symm
  | false =>
    have := mt (bField_eq_true_iff w).2 (by simp [hb])
    simp only [Bool.toNat_false]
    omega

theorem pField_toNat (w : CommandWord) : (pField w).toNat = w.toNat / 32 := by
  simp only [pField, BitVec.extractLsb'_toNat, Nat.shiftRight_eq_div_pow, Nat.reducePow]
  omega

theorem pField_eq_zero_iff (w : CommandWord) : pField w = 0#11 ↔ w.toNat / 32 = 0 := by
  rw [← BitVec.toNat_inj, pField_toNat, BitVec.toNat_ofNat, Nat.zero_mod]

/-- R70, R79: a word is its three fields put together. -/
theorem assemble_fieldsOf (w : CommandWord) : assemble (opField w).toNat (bField w) (pField w) = w := by
  apply BitVec.eq_of_toNat_eq
  rw [assemble, opField_toNat, bField_toNat, pField_toNat, BitVec.toNat_ofNat]
  omega

theorem eq_iff_fields (w v : CommandWord) :
    w = v ↔ opField w = opField v ∧ bField w = bField v ∧ pField w = pField v := by
  refine ⟨by rintro rfl; exact ⟨rfl, rfl, rfl⟩, fun ⟨ho, hb, hp⟩ => ?_⟩
  rw [← assemble_fieldsOf w, ho, hb, hp, assemble_fieldsOf]

/-! ### The four kinds of row (R71) -/

theorem decodePlain_eq_ok_iff (w : CommandWord) (i j : Instr) :
    decodePlain w i = .ok j ↔ i = j ∧ bField w = false ∧ pField w = 0#11 := by
  cases hb : bField w <;> by_cases hp : pField w = 0#11 <;> simp [decodePlain, hb, hp]

theorem decodeWithBit_eq_ok_iff (w : CommandWord) (f : Bool → Instr) (j : Instr) :
    decodeWithBit w f = .ok j ↔ f (bField w) = j ∧ pField w = 0#11 := by
  by_cases hp : pField w = 0#11 <;> simp [decodeWithBit, hp]

theorem decodeWithCell_eq_ok_iff (w : CommandWord) (f : Prob → Instr) (j : Instr) :
    decodeWithCell w f = .ok j ↔ f (pField w) = j ∧ bField w = false ∧ pField w ≠ 0#11 := by
  cases hb : bField w <;> by_cases hp : pField w = 0#11 <;> simp [decodeWithCell, hb, hp]

theorem decodeWithBitAndCell_eq_ok_iff (w : CommandWord) (f : Bool → Prob → Instr) (j : Instr) :
    decodeWithBitAndCell w f = .ok j ↔ f (bField w) (pField w) = j ∧ pField w ≠ 0#11 := by
  by_cases hp : pField w = 0#11 <;> simp [decodeWithBitAndCell, hp]

theorem decodePlain_eq_error_iff (w : CommandWord) (i : Instr) :
    (∃ r, decodePlain w i = .error r) ↔ bField w = true ∨ pField w ≠ 0#11 := by
  cases hb : bField w <;> by_cases hp : pField w = 0#11 <;> simp [decodePlain, hb, hp]

theorem decodeWithBit_eq_error_iff (w : CommandWord) (f : Bool → Instr) :
    (∃ r, decodeWithBit w f = .error r) ↔ pField w ≠ 0#11 := by
  by_cases hp : pField w = 0#11 <;> simp [decodeWithBit, hp]

theorem decodeWithCell_eq_error_iff (w : CommandWord) (f : Prob → Instr) :
    (∃ r, decodeWithCell w f = .error r) ↔ bField w = true ∨ pField w = 0#11 := by
  cases hb : bField w <;> by_cases hp : pField w = 0#11 <;> simp [decodeWithCell, hb, hp]

theorem decodeWithBitAndCell_eq_error_iff (w : CommandWord) (f : Bool → Prob → Instr) :
    (∃ r, decodeWithBitAndCell w f = .error r) ↔ pField w = 0#11 := by
  by_cases hp : pField w = 0#11 <;> simp [decodeWithBitAndCell, hp]

/-! ### The decoder -/

/-- The word's fields are the command's OP, B and P, at operand values the command admits (R71). -/
def FieldsOf (w : CommandWord) (i : Instr) : Prop :=
  i.wf = true ∧ (opField w).toNat = opCode i ∧ bField w = bOperand i ∧ pField w = pOperand i

theorem fieldsOf_of_decode {w : CommandWord} {i : Instr} (h : decode w = .ok i) : FieldsOf w i := by
  unfold decode at h
  split at h
  case h_1 ho | h_4 ho | h_7 ho | h_8 ho | h_10 ho =>
    obtain ⟨rfl, hb, hp⟩ := (decodePlain_eq_ok_iff ..).1 h
    exact ⟨rfl, ho, hb, hp⟩
  case h_2 ho =>
    obtain ⟨rfl, hp⟩ := (decodeWithBit_eq_ok_iff ..).1 h
    exact ⟨rfl, ho, rfl, hp⟩
  case h_3 ho =>
    obtain ⟨rfl, hp⟩ := (decodeWithBitAndCell_eq_ok_iff ..).1 h
    exact ⟨(cellLegal_eq_true _).2 hp, ho, rfl, rfl⟩
  case h_5 ho | h_6 ho | h_9 ho =>
    obtain ⟨rfl, hb, hp⟩ := (decodeWithCell_eq_ok_iff ..).1 h
    exact ⟨(cellLegal_eq_true _).2 hp, ho, hb, rfl⟩
  case h_11 => cases h

theorem decode_of_fieldsOf {w : CommandWord} {i : Instr} (h : FieldsOf w i) : decode w = .ok i := by
  obtain ⟨hw, ho, hb, hp⟩ := h
  unfold decode
  rw [ho]
  cases i with
  | encInit | encFlush | decInit | decDirect | decAtend => exact (decodePlain_eq_ok_iff ..).2 ⟨rfl, hb, hp⟩
  | encDirect b => exact (decodeWithBit_eq_ok_iff ..).2 ⟨congrArg _ hb, hp⟩
  | encBit b p =>
    exact (decodeWithBitAndCell_eq_ok_iff ..).2 ⟨congrArg₂ _ hb hp, fun h0 => (cellLegal_eq_true p).1 hw (hp.symm.trans h0)⟩
  | pInc p | pDec p | decBit p =>
    exact (decodeWithCell_eq_ok_iff ..).2 ⟨congrArg _ hp, hb, fun h0 => (cellLegal_eq_true p).1 hw (hp.symm.trans h0)⟩

/-- Which words the decoder accepts, and as what (R71, R79). -/
theorem decode_eq_ok_iff (w : CommandWord) (i : Instr) : decode w = .ok i ↔ FieldsOf w i :=
  ⟨fieldsOf_of_decode, decode_of_fieldsOf⟩

/-- R74's four cases on the decoder's own reading of the fields. -/
theorem illegalWord_iff_fields (w : CommandWord) :
    IllegalWord w ↔
      (opField w).toNat ∈ [0x6, 0x7, 0xC, 0xD, 0xE, 0xF] ∨
      (bField w = true ∧ (opField w).toNat ∈ [0x0, 0x3, 0x4, 0x5, 0x8, 0x9, 0xA, 0xB]) ∨
      (pField w ≠ 0#11 ∧ (opField w).toNat ∈ [0x0, 0x1, 0x3, 0x8, 0x9, 0xB]) ∨
      (pField w = 0#11 ∧ (opField w).toNat ∈ [0x2, 0x4, 0x5, 0xA]) := by
  rw [opField_toNat, bField_eq_true_iff, ne_eq, pField_eq_zero_iff]

/-- Which words the decoder rejects: exactly the illegal ones (R74). -/
theorem decode_eq_error_iff (w : CommandWord) : (∃ r, decode w = .error r) ↔ IllegalWord w := by
  have hlt := (opField w).isLt
  rw [illegalWord_iff_fields]
  unfold decode
  split
  case h_1 ho | h_4 ho | h_7 ho | h_8 ho | h_10 ho =>
    rw [decodePlain_eq_error_iff, ho]
    simp
  case h_2 ho =>
    rw [decodeWithBit_eq_error_iff, ho]
    simp
  case h_3 ho =>
    rw [decodeWithBitAndCell_eq_error_iff, ho]
    simp
  case h_5 ho | h_6 ho | h_9 ho =>
    rw [decodeWithCell_eq_error_iff, ho]
    simp
  case h_11 =>
    refine iff_of_true ⟨_, rfl⟩ (.inl ?_)
    simp only [imp_false] at *
    simp only [List.mem_cons, List.not_mem_nil, or_false]
    omega

theorem opCode_lt (i : Instr) : opCode i < 16 := by cases i <;> simp [opCode]

theorem fieldsOf_encode {i : Instr} (h : i.wf = true) : FieldsOf (encode i) i :=
  ⟨h, EncodeFields.assemble_fields (opCode i) (opCode_lt i) (bOperand i) (pOperand i)⟩

theorem FieldsOf.encode_eq {w : CommandWord} {i : Instr} (h : FieldsOf w i) : encode i = w := by
  obtain ⟨-, ho, hb, hp⟩ := h
  rw [encode, ← ho, ← hb, ← hp, assemble_fieldsOf]

/-- Settles O1: the fields of the encoded word are the command's own, and these decode to it. -/
theorem encodeThenDecodeGivesTheCommand : Obligations.EncodeThenDecodeGivesTheCommand :=
  fun i h => (decode_eq_ok_iff (encode i) i).2 (fieldsOf_encode h)

/-- Settles O2: an accepted word's fields are the command's, and a word is its fields put together. -/
theorem decodeThenEncodeGivesTheWord : Obligations.DecodeThenEncodeGivesTheWord :=
  fun w i h => have hf := (decode_eq_ok_iff w i).1 h; ⟨hf.1, hf.encode_eq⟩

/-! ### The match and mask table (R79) -/

/-- Every mask takes all of OP, and all of P or nothing of it; every pattern has B = 0 and P = 0. -/
theorem opcodeRows_shape : ∀ r ∈ opcodeRows,
    opField r.mask = BitVec.allOnes 4 ∧ (pField r.mask = BitVec.allOnes 11 ∨ pField r.mask = 0#11) ∧
    bField r.pattern = false ∧ pField r.pattern = 0#11 := by decide

theorem opField_and (w v : CommandWord) : opField (w &&& v) = opField w &&& opField v := BitVec.extractLsb'_and

theorem bField_and (w v : CommandWord) : bField (w &&& v) = (bField w && bField v) := BitVec.getLsbD_and

theorem pField_and (w v : CommandWord) : pField (w &&& v) = pField w &&& pField v := BitVec.extractLsb'_and

/-- What a row of the table asks of a word, field by field. -/
theorem rowMatches_iff {r : OpcodeRow} (hr : r ∈ opcodeRows) (w : CommandWord) :
    rowMatches r w = true ↔
      opField w = opField r.pattern ∧ (bField r.mask = true → bField w = false) ∧
      (pField r.mask ≠ 0#11 → pField w = 0#11) ∧ (r.needsCell = true → pField w ≠ 0#11) := by
  obtain ⟨hmo, hmp, hpb, hpp⟩ := opcodeRows_shape r hr
  rw [rowMatches, Bool.and_eq_true, beq_iff_eq, eq_iff_fields, opField_and, bField_and, pField_and, hmo, hpb, hpp,
    BitVec.and_allOnes, and_assoc, and_assoc]
  have hb : (bField w && bField r.mask) = false ↔ (bField r.mask = true → bField w = false) := by
    cases bField w <;> cases bField r.mask <;> decide
  have hp : pField w &&& pField r.mask = 0#11 ↔ (pField r.mask ≠ 0#11 → pField w = 0#11) := by
    obtain h | h := hmp
    · rw [h, BitVec.and_allOnes]
      exact (imp_iff_right (by decide)).symm
    · simp [h]
  have hc : (!r.needsCell || pField w != 0#11) = true ↔ (r.needsCell = true → pField w ≠ 0#11) := by
    cases r.needsCell <;> simp
  rw [hb, hp, hc]

/-- The columns of the table by OP, as R71 and R74 have them: no row has a reserved OP; where B must be 0, where P must be 0, and
where P is used. -/
theorem opcodeRows_columns : ∀ r ∈ opcodeRows,
    (opField r.pattern).toNat ∉ [0x6, 0x7, 0xC, 0xD, 0xE, 0xF] ∧
    (bField r.mask = true ↔ (opField r.pattern).toNat ∈ [0x0, 0x3, 0x4, 0x5, 0x8, 0x9, 0xA, 0xB]) ∧
    (pField r.mask ≠ 0#11 ↔ (opField r.pattern).toNat ∈ [0x0, 0x1, 0x3, 0x8, 0x9, 0xB]) ∧
    (r.needsCell = true ↔ (opField r.pattern).toNat ∈ [0x2, 0x4, 0x5, 0xA]) := by decide

/-- R78: a row matches exactly the legal words with its OP. -/
theorem rowMatches_iff_legal {r : OpcodeRow} (hr : r ∈ opcodeRows) (w : CommandWord) :
    rowMatches r w = true ↔ opField w = opField r.pattern ∧ ¬ IllegalWord w := by
  obtain ⟨hres, hb, hp, hc⟩ := opcodeRows_columns r hr
  rw [rowMatches_iff hr, illegalWord_iff_fields]
  refine and_congr_right fun ho => ?_
  rw [ho, ← hb, ← hp, ← hc, or_iff_right hres]
  simp only [not_or, not_and', ne_eq, not_not, Bool.not_eq_true]

theorem filter_rowMatches_of_illegal {w : CommandWord} (h : IllegalWord w) :
    (opcodeRows.filter fun r => rowMatches r w) = [] :=
  List.filter_eq_nil_iff.2 fun _ hr hm => ((rowMatches_iff_legal hr w).1 hm).2 h

/-- No two rows have the same OP, so a command's OP finds its row. -/
theorem filter_opCode (i : Instr) :
    (opcodeRows.filter fun r => (opField r.pattern).toNat = opCode i).map OpcodeRow.mnemonic = [mnemonic i] := by
  cases i <;> rfl

theorem filter_rowMatches_of_decode {w : CommandWord} {i : Instr} (h : decode w = .ok i) (hw : ¬ IllegalWord w) :
    (opcodeRows.filter fun r => rowMatches r w).map OpcodeRow.mnemonic = [mnemonic i] := by
  obtain ⟨-, ho, -, -⟩ := (decode_eq_ok_iff w i).1 h
  rw [← filter_opCode i]
  refine congrArg _ (List.filter_congr fun r hr => ?_)
  rw [Bool.eq_iff_iff, rowMatches_iff_legal hr, and_iff_left hw, decide_eq_true_iff, ← ho, BitVec.toNat_inj, eq_comm]

/-- Settles O3: the decoder rejects exactly the illegal words, and a legal word matches the row of its OP and no other. -/
theorem everyWordIsOneCommandOrIllegal : Obligations.EveryWordIsOneCommandOrIllegal := by
  intro w
  have hill := decode_eq_error_iff w
  cases hd : decode w with
  | error r =>
    have hw := hill.1 ⟨r, hd⟩
    exact .inr ⟨r, rfl, hw, filter_rowMatches_of_illegal hw⟩
  | ok i =>
    have hw : ¬ IllegalWord w := fun h => by
      obtain ⟨r, hr⟩ := hill.2 h
      cases hd.symm.trans hr
    exact .inl ⟨i, rfl, hw, filter_rowMatches_of_decode hd hw⟩

/-- Settles O4: eleven closed words. -/
theorem wordsOfTheSpecDecode : Obligations.WordsOfTheSpecDecode := by
  unfold Obligations.WordsOfTheSpecDecode
  decide

end Sys2Proof.Machine
end

section
/-! PROOFS. One step (30_encoding.md R82, R83; 60_exceptions.md R231, R245): O5, O6. -/

namespace Sys2Proof.Machine

theorem step_of_no_move {s : State} (h : s.moves = []) : step s = .next s := by
  simp only [step, takeMove, h]

theorem step_of_reset {s : State} {rest : List HostMove} (h : s.moves = .reset :: rest) :
    step s = .next (hardwareReset (s.setMoves rest)) := by
  simp only [step, takeMove, h]

theorem step_of_command {s : State} {w : CommandWord} {rest : List HostMove} (h : s.moves = .command w :: rest) :
    step s = acceptWord w (s.setMoves rest) := by
  simp only [step, takeMove, h]

theorem acceptWord_of_ok {w : CommandWord} {i : Instr} (h : decode w = .ok i) (s : State) : acceptWord w s = exec i s := by
  simp only [acceptWord, h]

theorem acceptWord_of_error {w : CommandWord} {r : Reject} (h : decode w = .error r) (s : State) :
    acceptWord w s = .next (refuseIllegal s) := by
  simp only [acceptWord, h]

/-- Settles O5: the step's two branches, with the word's branch on what the decoder gives. -/
theorem stepRunsTheDecodedCommand : Obligations.StepRunsTheDecodedCommand :=
  ⟨fun s _ rest _ hm hd => (step_of_command hm).trans (acceptWord_of_ok hd (s.setMoves rest)), fun _ => step_of_no_move⟩

/-- Settles O6: the decoder rejects an illegal word, and every rejected word is answered alike. -/
theorem illegalWordIsOnlyAnswered : Obligations.IllegalWordIsOnlyAnswered := by
  intro s w rest hm hw
  obtain ⟨r, hd⟩ := (decode_eq_error_iff w).2 hw
  exact (step_of_command hm).trans (acceptWord_of_error hd (s.setMoves rest))

end Sys2Proof.Machine
end

section
/-! PROOFS. Every response (30_encoding.md R76, R82): `Answer` says once which STATUS, BIT and P a command answers: O9, O10. -/

namespace Sys2Proof.Machine

/-! ### The fields of a response word -/

theorem toNat_responseWord (st : Status) (bit : Bool) (p : Prob) :
    (responseWord st bit p).toNat = p.toNat * 32 + bit.toNat * 8 + statusCode st := by
  have hst : statusCode st < 8 := by cases st <;> decide
  have hp := p.isLt
  have hbit := bit.toNat_le
  rw [responseWord, BitVec.toNat_ofNat]
  omega

theorem responseWord_bit (st : Status) (bit : Bool) (p : Prob) : (responseWord st bit p).toNat / 8 % 2 = bit.toNat := by
  have hst : statusCode st < 8 := by cases st <;> decide
  have hbit := bit.toNat_le
  rw [toNat_responseWord]
  omega

theorem responseWord_bit4 (st : Status) (bit : Bool) (p : Prob) : (responseWord st bit p).toNat / 16 % 2 = 0 := by
  have hst : statusCode st < 8 := by cases st <;> decide
  have hbit := bit.toNat_le
  rw [toNat_responseWord]
  omega

theorem responseWord_p (st : Status) (bit : Bool) (p : Prob) : (responseWord st bit p).toNat / 32 = p.toNat := by
  have hst : statusCode st < 8 := by cases st <;> decide
  have hbit := bit.toNat_le
  rw [toNat_responseWord]
  omega

theorem statusCode_ne_seven (st : Status) : statusCode st ≠ 7 := by cases st <;> decide

theorem newCell_lt (b : Bool) {p : Nat} (h : p < 2048) : newCell b p < 2048 := by
  unfold newCell
  split <;> omega

theorem toNat_cellUpdate (b : Bool) (p : Prob) : (cellUpdate b p).toNat = newCell b p.toNat := by
  rw [cellUpdate_eq_newCell, BitVec.toNat_ofNat]
  exact Nat.mod_eq_of_lt (newCell_lt b p.isLt)

theorem toNat_atEnd (d : DecUnit) : (atEnd d).toNat = if d.code = 0#32 then 1 else 0 := by
  unfold atEnd
  split <;> simp [*]

/-! ### What each command answers -/

/-- BIT and P of each command's response when it completes, by what DEC holds (R76). -/
inductive Outputs (d : DecUnit) : Instr → Bool → Prob → Prop where
  | encInit : Outputs d .encInit false 0#11
  | encDirect (b : Bool) : Outputs d (.encDirect b) false 0#11
  | encBit (b : Bool) (p : Prob) : Outputs d (.encBit b p) false (cellUpdate b p)
  | encFlush : Outputs d .encFlush false 0#11
  | pInc (p : Prob) : Outputs d (.pInc p) false (cellUpdate false p)
  | pDec (p : Prob) : Outputs d (.pDec p) false (cellUpdate true p)
  | decInit : Outputs d .decInit false 0#11
  | decDirect : Outputs d .decDirect (directDecoded d).1 0#11
  | decBit (p : Prob) : Outputs d (.decBit p) (adaptiveDecoded p d).1 (cellUpdate (adaptiveDecoded p d).1 p)
  | decAtend : Outputs d .decAtend (atEnd d) 0#11

/-- Everything `i` can answer from `s` when its outputs are `b` and `q`: a refusal, both outputs, or a fatal status with P = `q`
(R76). -/
inductive Answer (s : State) (i : Instr) (b : Bool) (q : Prob) : Status → Bool → Prob → Prop where
  | illegal (hw : i.wf = false) : Answer s i b q .errIllegal false 0#11
  | outOfPhase (ha : ¬ AcceptedIn i s) : Answer s i b q .errSeq false 0#11
  | ok : Answer s i b q .ok b q
  | fatal (f : Fatal) : Answer s i b q (fatalStatus f) false q

/-- The step of `i` from `s` to `t` delivers exactly one response word, one of the command's answers. -/
def AnswersOnce (s : State) (i : Instr) (t : State) : Prop :=
  ∃ b q st bit p, Outputs s.dec i b q ∧ Answer s i b q st bit p ∧ t.responses = s.responses ++ [responseWord st bit p]

theorem exists_outputs (d : DecUnit) (i : Instr) : ∃ b q, Outputs d i b q := by
  cases i <;> exact ⟨_, _, by constructor⟩

theorem outputs_encCommand (d : DecUnit) (c : CodedBit) : Outputs d c.encCommand false c.newP := by
  cases c with
  | direct b => exact .encDirect b
  | adaptive b p =>
    have hp : (CodedBit.adaptive b p).newP = cellUpdate b p := (cellUpdate_eq_newCell b p).symm
    exact hp ▸ .encBit b p

theorem outputs_decCommand (d : DecUnit) (c : CodedBit) :
    Outputs d c.decCommand (c.decoded d).1 (c.decodedP (c.decoded d).1) := by
  cases c with
  | direct b => exact .decDirect
  | adaptive b p => exact .decBit p

theorem encWork_go_value {c : CodedBit} {s t : State} {a : Bool × Prob} (h : c.encWork s = .go a t) : a = (false, c.newP) := by
  obtain ⟨_, u, -, h⟩ := andThen_eq_go h
  cases h
  rfl

theorem decWork_go_value {c : CodedBit} {s t : State} {a : Bool × Prob} (h : c.decWork s = .go a t) :
    a = ((c.decoded s.dec).1, c.decodedP (c.decoded s.dec).1) := by
  obtain ⟨_, u, -, h⟩ := andThen_eq_go h
  cases h
  rfl

/-- Work that delivers no response of its own and goes on with the command's outputs is answered with these, or fatally. -/
theorem commandEnd_answersOnce {s : State} {i : Instr} {b : Bool} {q : Prob} {x : Flow (Bool × Prob)} (u : CoderUnit)
    (h : Outputs s.dec i b q) (hr : x.state.responses = s.responses) (hgo : ∀ a t, x = .go a t → a = (b, q)) :
    AnswersOnce s i (commandEnd u q x) := by
  have hc := commandEnd_responses u q x
  rw [hr] at hc
  cases x with
  | go a t =>
    obtain rfl := hgo a t rfl
    exact ⟨b, q, _, _, _, h, .ok, hc⟩
  | raise f t => exact ⟨b, q, _, _, _, h, .fatal f, hc⟩

/-- Every command delivers exactly one response word (R76, R82). -/
theorem CommandRun.answersOnce {i : Instr} {s t : State} (h : CommandRun s i t) : AnswersOnce s i t := by
  obtain ⟨b, q, ho⟩ := exists_outputs s.dec i
  cases h with
  | illegal hw => exact ⟨b, q, _, _, _, ho, .illegal hw, rfl⟩
  | outOfPhase _ ha => exact ⟨b, q, _, _, _, ho, .outOfPhase ha, rfl⟩
  | pInc _ => exact ⟨_, _, _, _, _, .pInc _, .ok, rfl⟩
  | pDec _ => exact ⟨_, _, _, _, _, .pDec _, .ok, rfl⟩
  | encInit => exact ⟨_, _, _, _, _, .encInit, .ok, rfl⟩
  | encBit c _ _ =>
    exact commandEnd_answersOnce .enc (outputs_encCommand _ c) (responses_of_encInto (encWork_encInto c) s)
      fun _ _ => encWork_go_value
  | encFlush _ =>
    exact commandEnd_answersOnce .enc .encFlush (responses_of_encInto flushWork_encInto s) fun _ _ hx => (flushWork_go hx).1
  | decInit =>
    exact commandEnd_answersOnce .dec .decInit (responses_of_decInto decInitWork_decInto s) fun _ _ hx => (decInitWork_go hx).1
  | decBit c _ _ =>
    exact commandEnd_answersOnce .dec (outputs_decCommand _ c) (responses_of_decInto (decWork_decInto c) s)
      fun _ _ => decWork_go_value
  | decAtend _ => exact ⟨_, _, _, _, _, .decAtend, .ok, rfl⟩

/-! ### STATUS against BIT and P -/

section

variable {s : State} {i : Instr} {b bit : Bool} {q p : Prob} {st : Status}

theorem statusCode_fatalStatus_ne (f : Fatal) :
    statusCode (fatalStatus f) ≠ 0 ∧ statusCode (fatalStatus f) ≠ 1 ∧ statusCode (fatalStatus f) ≠ 2 := by
  cases f <;> decide

theorem Answer.bit_of_ok (h : Answer s i b q st bit p) (hst : statusCode st = 0) : bit = b := by
  cases h with
  | ok => rfl
  | illegal _ | outOfPhase _ => cases hst
  | fatal f => exact absurd hst (statusCode_fatalStatus_ne f).1

theorem Answer.bit_of_not_ok (h : Answer s i b q st bit p) (hst : statusCode st ≠ 0) : bit = false := by
  cases h with
  | ok => exact absurd rfl hst
  | illegal _ | outOfPhase _ | fatal _ => rfl

theorem Answer.p_of_refused (h : Answer s i b q st bit p) (hst : statusCode st = 1 ∨ statusCode st = 2) : p = 0#11 := by
  cases h with
  | illegal _ | outOfPhase _ => rfl
  | ok => exact absurd hst (by decide)
  | fatal f => exact absurd hst (not_or.2 (statusCode_fatalStatus_ne f).2)

theorem Answer.p_of_not_refused (h : Answer s i b q st bit p) (hst : statusCode st ≠ 1 ∧ statusCode st ≠ 2) : p = q := by
  cases h with
  | ok | fatal _ => rfl
  | illegal _ => exact absurd rfl hst.1
  | outOfPhase _ => exact absurd rfl hst.2

theorem Answer.not_errSeq (h : Answer s i b q st bit p) (ha : AcceptedIn i s) : statusCode st ≠ 2 := by
  cases h with
  | outOfPhase hn => exact absurd ha hn
  | illegal _ | ok => decide
  | fatal f => exact (statusCode_fatalStatus_ne f).2.2

/-- A command whose output BIT is 0 answers BIT = 0, whatever becomes of it. -/
theorem Answer.bit_eq_false (h : Answer s i false q st bit p) : bit = false := by
  cases h <;> rfl

/-- A command whose output P is 0 answers P = 0, whatever becomes of it. -/
theorem Answer.p_eq_zero (h : Answer s i b 0#11 st bit p) : p = 0#11 := by
  cases h <;> rfl

end

/-- Settles O10: the response word holds the command's answer, and the command's outputs are read off command by command. -/
theorem responseWordFields : Obligations.ResponseWordFields := by
  intro i s
  obtain ⟨t, h⟩ := exists_commandRun i s
  obtain ⟨b, q, st, bit, p, ho, ha, hr⟩ := h.answersOnce
  refine ⟨t, _, h.exec_eq, hr, ?_⟩
  simp only [responseWord_status, responseWord_bit, responseWord_bit4, responseWord_p]
  refine ⟨statusCode_ne_seven st, trivial, fun hst => congrArg Bool.toNat (ha.bit_of_not_ok hst),
    fun hst => congrArg BitVec.toNat (ha.p_of_refused hst), ?_⟩
  have hbit := fun hst => congrArg Bool.toNat (ha.bit_of_ok hst)
  have hp := fun hst => congrArg BitVec.toNat (ha.p_of_not_refused hst)
  cases ho with
  | encInit | encDirect _ | encFlush | decInit =>
    exact ⟨congrArg Bool.toNat ha.bit_eq_false, congrArg BitVec.toNat ha.p_eq_zero⟩
  | encBit b x => exact ⟨congrArg Bool.toNat ha.bit_eq_false, fun hst => (hp hst).trans (toNat_cellUpdate b x)⟩
  | pInc x =>
    exact ⟨congrArg Bool.toNat ha.bit_eq_false, fun hst =>
      (hp ⟨hst, ha.not_errSeq trivial⟩).trans (toNat_cellUpdate false x)⟩
  | pDec x =>
    exact ⟨congrArg Bool.toNat ha.bit_eq_false, fun hst =>
      (hp ⟨hst, ha.not_errSeq trivial⟩).trans (toNat_cellUpdate true x)⟩
  | decDirect => exact ⟨congrArg BitVec.toNat ha.p_eq_zero, hbit⟩
  | decBit x => exact ⟨hbit, fun hst => (hp hst).trans (toNat_cellUpdate _ x)⟩
  | decAtend => exact ⟨congrArg BitVec.toNat ha.p_eq_zero, fun hst => (hbit hst).trans (toNat_atEnd s.dec)⟩

/-! ### One step -/

theorem exists_step (s : State) : ∃ t, step s = .next t := by
  rcases hm : s.moves with _ | ⟨w | _, rest⟩
  · exact ⟨_, step_of_no_move hm⟩
  · rw [step_of_command hm]
    cases hd : decode w with
    | error r => exact ⟨_, acceptWord_of_error hd _⟩
    | ok i =>
      obtain ⟨t, h⟩ := exists_commandRun i (s.setMoves rest)
      exact ⟨t, (acceptWord_of_ok hd _).trans h.exec_eq⟩
  · exact ⟨_, step_of_reset hm⟩

/-- Settles O9: of the four things a step can do, an illegal word and a command deliver one response, reset and idling none. -/
theorem everyStepAnswersOneResponsePerWord : Obligations.EveryStepAnswersOneResponsePerWord := by
  intro s
  obtain ⟨t, hst⟩ := exists_step s
  refine ⟨t, hst, ?_⟩
  obtain ⟨hm, rfl⟩ | ⟨rest, hm, rfl⟩ | ⟨w, rest, e, hm, -, rfl⟩ | ⟨w, rest, i, hm, -, h⟩ := step_cases hst <;> rw [hm]
  · exact ⟨rfl, rfl, rfl⟩
  · exact ⟨rfl, rfl, rfl⟩
  · exact ⟨rfl, rfl, _, rfl⟩
  · obtain ⟨_, _, st, bit, p, -, -, hr⟩ := h.answersOnce
    exact ⟨h.moves_eq, h.config_eq, _, hr⟩

end Sys2Proof.Machine
end

section
/-! PROOFS. The probability cell (40_probability_cell.md R100 to R106): Bound, Inc and Dec on naturals, the band [31, 2017], and the two
cell commands: O11, O12, O13, O14, O15. -/

namespace Sys2Proof.Machine

/-! ### Bound -/

/-- R100: a legal `p` gives both outcomes a part of every range of 2^11 or more. -/
theorem div_mul_cell_pos_lt {r p : Nat} (hp : 1 ≤ p) (hlt : p < 2 ^ 11) (hr : 2 ^ 11 ≤ r) :
    1 ≤ r / 2 ^ 11 * p ∧ r / 2 ^ 11 * p < r := by
  have hq : 0 < r / 2 ^ 11 := Nat.div_pos hr (by decide)
  exact ⟨Nat.mul_pos hq hp, (Nat.mul_lt_mul_of_pos_left hlt hq).trans_le (Nat.div_mul_le_self ..)⟩

theorem bound_le_largest (r : Word) (p : Prob) : (bound r p).toNat ≤ 0xFFDFF801 := by
  have hr : r.toNat / 2 ^ 11 ≤ 2 ^ 21 - 1 := by have := r.isLt; omega
  rw [toNat_bound]
  exact Nat.mul_le_mul hr (Nat.le_pred_of_lt p.isLt)

theorem bound_of_range_lt {r : Word} (h : r.toNat < 2 ^ 11) (p : Prob) : bound r p = 0#32 := by
  apply BitVec.eq_of_toNat_eq
  rw [toNat_bound, Nat.div_eq_of_lt h, Nat.zero_mul, BitVec.toNat_ofNat, Nat.zero_mod]

theorem bound_zero (r : Word) : bound r 0#11 = 0#32 := BitVec.mul_zero

/-- Settles O11: Bound is the exact product, and the corner cases are those of the product. -/
theorem boundIsExact : Obligations.BoundIsExact := by
  intro r p
  refine ⟨toNat_bound r p, bound_le_largest r p, fun hp hr => ?_, fun hr => bound_of_range_lt hr p, ?_, bound_le r p, by decide⟩
  · rw [toNat_bound]
    exact div_mul_cell_pos_lt hp p.isLt hr
  · rintro rfl
    exact bound_zero r

/-! ### Inc and Dec on naturals -/

theorem toNat_inc (p : Prob) : (inc p).toNat = p.toNat + (2048 - p.toNat) / 2 ^ 5 := toNat_cellUpdate false p

theorem toNat_dec (p : Prob) : (dec p).toNat = p.toNat - p.toNat / 2 ^ 5 := toNat_cellUpdate true p

/-- R101: where Inc stays. -/
theorem inc_eq_self_iff (p : Prob) : inc p = p ↔ 2017 ≤ p.toNat := by
  rw [← BitVec.toNat_inj, toNat_inc]
  omega

/-- R102: where Dec stays. -/
theorem dec_eq_self_iff (p : Prob) : dec p = p ↔ p.toNat ≤ 31 := by
  rw [← BitVec.toNat_inj, toNat_dec]
  omega

/-- Settles O12: the exact values give the bounds on each step, and the fixed points are read off them. -/
theorem incAndDecAreExact : Obligations.IncAndDecAreExact := by
  refine ⟨fun p hp => ?_, by decide, by decide, by decide, by decide⟩
  have hpos : p.toNat ≠ 0 := fun h => hp (BitVec.eq_of_toNat_eq h)
  have hlt := p.isLt
  have hinc := toNat_inc p
  have hdec := toNat_dec p
  refine ⟨hinc, ?_, inc_eq_self_iff p, ?_, hdec, ?_, ?_, dec_eq_self_iff p, ?_⟩ <;> omega

/-! ### The band -/

theorem newCell_mem_band (b : Bool) {p : Nat} (hl : 31 ≤ p) (hu : p ≤ 2017) : 31 ≤ newCell b p ∧ newCell b p ≤ 2017 := by
  cases b with
  | false =>
    change 31 ≤ p + (2048 - p) / 2 ^ 5 ∧ p + (2048 - p) / 2 ^ 5 ≤ 2017
    omega
  | true =>
    change 31 ≤ p - p / 2 ^ 5 ∧ p - p / 2 ^ 5 ≤ 2017
    omega

/-- An iteration that first meets the fixed point `y` after `k + 1` steps stands there from then on and not before. -/
theorem iterate_eq_fixed_iff {α : Type} {f : α → α} {x y : α} {k : Nat} (hy : f y = y) (hbefore : f^[k] x ≠ y)
    (hthere : f^[k + 1] x = y) (n : Nat) : f^[n] x = y ↔ k + 1 ≤ n := by
  have stays {m : Nat} (hm : f^[m] x = y) {l : Nat} (hl : m ≤ l) : f^[l] x = y := by
    rw [← Nat.sub_add_cancel hl, Function.iterate_add_apply, hm, Function.iterate_fixed hy]
  exact ⟨fun hn => Nat.lt_of_not_le fun hle => hbefore (stays hn hle), stays hthere⟩

/-- Settles O13: the band is closed on naturals, and each saturation is the first visit to a fixed point. -/
theorem cellStaysInItsBand : Obligations.CellStaysInItsBand := by
  refine ⟨fun p b hl hu => ?_, iterate_eq_fixed_iff (k := 126) ?_ ?_ ?_, iterate_eq_fixed_iff (k := 126) ?_ ?_ ?_⟩
  · rw [toNat_cellUpdate]
    exact newCell_mem_band b hl hu
  · exact (inc_eq_self_iff _).2 (by decide)
  · decide +kernel
  · decide +kernel
  · exact (dec_eq_self_iff _).2 (by decide)
  · decide +kernel
  · decide +kernel

/-! ### Every value of the band is reached

Inc and Dec both have preimages of a closed form. Inc alone climbs from 1024 to 1986, and from there by ones to 2017. A value from
1952 on below that is an Inc of a smaller one, down to the three that are a Dec of a value from 2014 on. A value below 1952 is a Dec
of a greater one. -/

/-- Some updates lead a cell from PROB_INIT to `v`. -/
def CellReaches (v : Nat) : Prop := ∃ us : List Bool, (us.foldl (fun p b => cellUpdate b p) 1024#11).toNat = v

theorem CellReaches.update {v : Nat} (h : CellReaches v) (b : Bool) : CellReaches (newCell b v) := by
  obtain ⟨us, rfl⟩ := h
  exact ⟨us ++ [b], by rw [List.foldl_append, List.foldl_cons, List.foldl_nil, toNat_cellUpdate]⟩

theorem newCell_true_preimage (v : Nat) : newCell true (v + v / 31) = v := by
  change v + v / 31 - (v + v / 31) / 2 ^ 5 = v
  omega

theorem newCell_false_preimage {v : Nat} (hl : 64 ≤ v) (hu : v ≤ 2048) : newCell false (v - (2048 - v) / 31) = v := by
  change v - (2048 - v) / 31 + (2048 - (v - (2048 - v) / 31)) / 2 ^ 5 = v
  omega

theorem CellReaches.of_dec {v : Nat} (h : CellReaches (v + v / 31)) : CellReaches v :=
  newCell_true_preimage v ▸ h.update true

theorem CellReaches.of_inc {v : Nat} (hl : 64 ≤ v) (hu : v ≤ 2048) (h : CellReaches (v - (2048 - v) / 31)) : CellReaches v :=
  newCell_false_preimage hl hu ▸ h.update false

theorem newCell_false_eq_succ {v : Nat} (hl : 1985 ≤ v) (hu : v < 2017) : newCell false v = v + 1 := by
  change v + (2048 - v) / 2 ^ 5 = v + 1
  omega

theorem cellReaches_from_1986 {v : Nat} (hl : 1986 ≤ v) (hu : v ≤ 2017) : CellReaches v := by
  induction v, hl using Nat.le_induction with
  | base => exact ⟨List.replicate 96 false, by decide +kernel⟩
  | succ v hl ih => exact newCell_false_eq_succ (by omega) hu ▸ (ih (by omega)).update false

theorem cellReaches_from_1952 (v : Nat) (hl : 1952 ≤ v) (hu : v ≤ 2017) : CellReaches v := by
  induction v using Nat.strong_induction_on with
  | _ v ih =>
    obtain h | h | h : v ≤ 1954 ∨ (1955 ≤ v ∧ v < 1986) ∨ 1986 ≤ v := by omega
    · exact .of_dec (cellReaches_from_1986 (by omega) (by omega))
    · exact .of_inc (by omega) (by omega) (ih _ (by omega) (by omega) (by omega))
    · exact cellReaches_from_1986 h hu

theorem cellReaches_of_mem_band (v : Nat) (hl : 31 ≤ v) (hu : v ≤ 2017) : CellReaches v := by
  by_cases h : 1952 ≤ v
  · exact cellReaches_from_1952 v h hu
  · exact .of_dec (cellReaches_of_mem_band (v + v / 31) (by omega) (by omega))
termination_by 2017 - v

/-- Settles O14: the band is reached on naturals, and a cell is its natural. -/
theorem everyBandValueIsReachable : Obligations.EveryBandValueIsReachable := by
  intro v hl hu
  obtain ⟨us, h⟩ := cellReaches_of_mem_band v.toNat hl hu
  exact ⟨us, BitVec.eq_of_toNat_eq h⟩

/-! ### P.INC and P.DEC -/

theorem exec_pInc {p : Prob} (hp : p ≠ 0#11) (s : State) :
    exec (.pInc p) s = .next { s with responses := s.responses ++ [response 0 0 (p.toNat + (2048 - p.toNat) / 2 ^ 5)] } := by
  rw [← toNat_inc]
  exact (CommandRun.pInc hp).exec_eq

theorem exec_pDec {p : Prob} (hp : p ≠ 0#11) (s : State) :
    exec (.pDec p) s = .next { s with responses := s.responses ++ [response 0 0 (p.toNat - p.toNat / 2 ^ 5)] } := by
  rw [← toNat_dec]
  exact (CommandRun.pDec hp).exec_eq

/-- R74 (b), R105, R106: the two commands with B = 1. -/
theorem illegalWord_of_cellCommand_bit {w : CommandWord} (h : w.toNat % 32 = 0x14 ∨ w.toNat % 32 = 0x15) : IllegalWord w := by
  refine .inr (.inl ⟨by omega, ?_⟩)
  obtain h | h : w.toNat % 16 = 0x4 ∨ w.toNat % 16 = 0x5 := by omega
  all_goals simp [h]

/-- Settles O15: B = 1 and P = 0 are refused, and a legal `p` is answered with its update's natural, with no phase read. -/
theorem cellCommandsAnswerTheUpdate : Obligations.CellCommandsAnswerTheUpdate := by
  refine ⟨fun w h => (decode_eq_error_iff w).2 (illegalWord_of_cellCommand_bit h),
    fun p s => ⟨fun hp => ⟨exec_pInc hp s, exec_pDec hp s⟩, ?_⟩⟩
  rintro rfl
  exact ⟨exec_of_not_wf rfl s, exec_of_not_wf rfl s⟩

end Sys2Proof.Machine
end

section
/-! PROOFS. ShiftLow and the two users of it as exact next states (41_encoder.md R130 to R133, R136 to R139): a ShiftLow whose count
fits is a list of bytes written to the sink, and then the new ENC: O16, O17, O18, O19. -/

namespace Sys2Proof.Machine

/-! ### The bytes written so far, and ENC -/

theorem afterWrites_nil (s : State) (e : EncUnit) : afterWrites s e [] = s.setEnc e := by
  simp only [afterWrites, List.append_nil, List.length_nil, List.drop_zero]
  rfl

theorem afterWrites_afterWrites (s : State) (e f : EncUnit) (as bs : List Byte) :
    afterWrites (afterWrites s e as) f bs = afterWrites s f (as ++ bs) := by
  simp only [afterWrites, List.append_assoc, List.length_append, List.drop_drop]

/-- The sink accepts `m + n` requests when it accepts `m`, and `n` more once `m` bytes are written. -/
theorem sinkAcceptsNext_add {as : List Byte} {n : Nat} {s : State} (e : EncUnit) :
    SinkAcceptsNext (as.length + n) s ↔ SinkAcceptsNext as.length s ∧ SinkAcceptsNext n (afterWrites s e as) := by
  simp only [SinkAcceptsNext, List.take_add, List.forall_mem_append, afterWrites]

/-! ### Writing a list of bytes -/

/-- SinkWrite for each byte of a list, in order (R59). -/
def writeBytes : List Byte → State → Flow Unit
  | [], s => .go () s
  | b :: bs, s => andThen (sinkWrite b s) fun _ t => writeBytes bs t

theorem sinkWriteRepeat_eq_writeBytes (b : Byte) (n : Nat) (s : State) :
    sinkWriteRepeat b n s = writeBytes (List.replicate n b) s := by
  induction n generalizing s with
  | zero => rfl
  | succ n ih =>
    rw [List.replicate_succ, sinkWriteRepeat, writeBytes]
    exact congrArg (andThen _) (funext fun _ => funext ih)

theorem sinkWrite_go {b : Byte} {s t : State} (h : sinkWrite b s = .go () t) : t = afterWrites s s.enc [b] := by
  obtain ⟨-, e⟩ | ⟨-, e⟩ := sinkWrite_cases b s <;> cases e.symm.trans h
  rw [afterWrites, List.length_singleton, List.drop_one]
  rfl

theorem head?_ne_err_of_accepts {s : State} (h : SinkAcceptsNext 1 s) : s.sink.answers.head? ≠ some .err := by
  intro he
  obtain ⟨rest, hr⟩ := List.head?_eq_some_iff.1 he
  exact nomatch h .err (by rw [hr]; exact List.mem_cons_self)

theorem sinkWrite_accepted {s : State} (h : SinkAcceptsNext 1 s) (b : Byte) :
    sinkWrite b s = .go () (afterWrites s s.enc [b]) := by
  obtain ⟨-, e⟩ | ⟨he, -⟩ := sinkWrite_cases b s
  · rw [e, ← sinkWrite_go e]
  · exact absurd he (head?_ne_err_of_accepts h)

/-- Bytes written without a raise are all accepted, and nothing else changes. -/
theorem writeBytes_go {bs : List Byte} {s t : State} (h : writeBytes bs s = .go () t) : t = afterWrites s s.enc bs := by
  induction bs generalizing s with
  | nil => cases h; exact (afterWrites_nil t t.enc).symm
  | cons b bs ih =>
    obtain ⟨_, u, hu, h⟩ := andThen_eq_go h
    rw [ih h, sinkWrite_go hu]
    exact afterWrites_afterWrites s s.enc s.enc [b] bs

theorem writeBytes_accepted {bs : List Byte} {s : State} (h : SinkAcceptsNext bs.length s) :
    writeBytes bs s = .go () (afterWrites s s.enc bs) := by
  induction bs generalizing s with
  | nil => rw [afterWrites_nil]; rfl
  | cons b bs ih =>
    rw [List.length_cons, Nat.add_comm] at h
    obtain ⟨h1, hn⟩ := (sinkAcceptsNext_add (as := [b]) s.enc).1 h
    rw [writeBytes, sinkWrite_accepted h1, andThen_go, ih hn]
    exact congrArg (Flow.go ()) (afterWrites_afterWrites s s.enc s.enc [b] bs)

/-! ### ShiftLow -/

/-- A held byte plus the carry, on naturals (R131, R132). -/
theorem plusCarry_carry (e : EncUnit) (v : Byte) :
    plusCarry (carry e) v = BitVec.ofNat 8 (v.toNat + e.low.toNat / 2 ^ 32) := by
  have hc : carry e = decide (2 ^ 32 ≤ e.low.toNat) := BitVec.msb_eq_decide e.low
  have hl := e.low.isLt
  have hq : (carry e).toNat = e.low.toNat / 2 ^ 32 := by
    rw [hc]
    by_cases h : 2 ^ 32 ≤ e.low.toNat <;> simp only [h, decide_true, decide_false, Bool.toNat_true, Bool.toNat_false] <;> omega
  rw [plusCarry, hq, BitVec.ofNat_add, BitVec.ofNat_toNat, BitVec.setWidth_eq]

theorem writeHeldBytes_eq {s : State} (h : ¬ Defers s.enc) : writeHeldBytes s = writeBytes (shiftBytes s.enc) s := by
  rw [shiftBytes, if_neg h, writeHeldBytes, writeBytes, plusCarry_carry, plusCarry_carry]
  exact congrArg (andThen _) (funext fun _ => funext fun t => sinkWriteRepeat_eq_writeBytes ..)

theorem shiftLow_of_defers {s : State} (h : Defers s.enc) : shiftLow s = countAndShift s :=
  if_neg (mt (takesFlushPath_iff _).1 (not_not.2 h))

theorem shiftLow_of_not_defers {s : State} (h : ¬ Defers s.enc) (hz : s.enc.cacheSize ≠ 0) :
    shiftLow s = andThen (writeBytes (shiftBytes s.enc) s) fun _ t => countAndShift (holdBackNext t) := by
  rw [shiftLow, if_pos ((takesFlushPath_iff _).2 h), if_neg hz, writeHeldBytes_eq h]

theorem countAndShift_of_fits {s : State} (h : s.enc.cacheSize + 1 ≠ 2 ^ s.config.wCS) :
    countAndShift s = .go () (s.setEnc
      { s.enc with
        cacheSize := s.enc.cacheSize + 1
        low := BitVec.ofNat 33 (s.enc.low.toNat % 2 ^ 24 * 2 ^ 8) }) := by
  rw [countAndShift, if_neg (mt (eq_maxCacheSize_iff ..).1 h), shiftedLow_eq]

/-- R132, R133: a ShiftLow whose count fits writes its bytes, as far as the sink accepts them, and then sets ENC. -/
theorem shiftLow_of_fits {s : State} (h : CountFits s.config s.enc) :
    shiftLow s = andThen (writeBytes (shiftBytes s.enc) s) fun _ t => .go () (t.setEnc (shifted s.enc)) := by
  by_cases hd : Defers s.enc
  · rw [CountFits, if_pos hd] at h
    rw [shiftLow_of_defers hd, countAndShift_of_fits h, shiftBytes_of_defers hd, shifted, if_pos hd, if_pos hd]
    rfl
  · rw [CountFits, if_neg hd] at h
    rw [shiftLow_of_not_defers hd h.1]
    cases hx : writeBytes (shiftBytes s.enc) s with
    | raise f t => rfl
    | go a t =>
      have ht := writeBytes_go hx
      have hfit : (holdBackNext t).enc.cacheSize + 1 ≠ 2 ^ (holdBackNext t).config.wCS := by rw [ht]; exact h.2
      rw [andThen_go, andThen_go, countAndShift_of_fits hfit, shifted, if_neg hd, if_neg hd, ht, ← nextCache_eq]
      rfl

theorem shiftLow_go_eq {s t : State} (h : shiftLow s = .go () t) : t = afterWrites s (shifted s.enc) (shiftBytes s.enc) := by
  rw [shiftLow_of_fits (shiftLow_go h).1] at h
  obtain ⟨_, u, hu, h⟩ := andThen_eq_go h
  cases h
  rw [writeBytes_go hu]
  rfl

theorem shiftLow_accepted {s : State} (ha : SinkAcceptsNext (shiftBytes s.enc).length s) (hf : CountFits s.config s.enc) :
    shiftLow s = .go () (afterWrites s (shifted s.enc) (shiftBytes s.enc)) := by
  rw [shiftLow_of_fits hf, writeBytes_accepted ha]
  rfl

/-- Settles O16: the bytes are accepted and ENC is set, and the shifted low has 32 bits. -/
theorem shiftLowFlushesOrDefers : Obligations.ShiftLowFlushesOrDefers := by
  intro s ha hf
  refine ⟨shiftLow_accepted ha hf, ?_⟩
  rw [shifted_low_toNat]
  omega

/-! ### EncNormalize and one coded bit -/

theorem encNormalize_of_shift {s : State} (h : NeedsShift s.enc.range) :
    encNormalize s = shiftLow (s.setEnc (rangeShifted s.enc)) := by
  rw [← rangeShifted_eq]
  exact if_pos h

theorem encNormalize_of_no_shift {s : State} (h : ¬ NeedsShift s.enc.range) : encNormalize s = .go () s := if_neg h

theorem encNormalize_accepted {s : State} (ha : SinkAcceptsNext (normalizeBytes s.enc).length s)
    (hf : NeedsShift s.enc.range → CountFits s.config s.enc) :
    encNormalize s = .go () (afterWrites s (normalized s.enc) (normalizeBytes s.enc)) := by
  by_cases hn : NeedsShift s.enc.range
  · rw [normalizeBytes, if_pos hn] at ha ⊢
    rw [normalized, if_pos hn, encNormalize_of_shift hn]
    exact shiftLow_accepted (s := s.setEnc (rangeShifted s.enc)) ha (hf hn)
  · rw [normalizeBytes, if_neg hn, normalized, if_neg hn, encNormalize_of_no_shift hn, afterWrites_nil, setEnc_self]

theorem encNormalize_go_eq {s t : State} (h : encNormalize s = .go () t) :
    t = afterWrites s (normalized s.enc) (normalizeBytes s.enc) := by
  by_cases hn : NeedsShift s.enc.range
  · rw [encNormalize_of_shift hn] at h
    rw [normalizeBytes, if_pos hn, normalized, if_pos hn]
    exact shiftLow_go_eq h
  · cases (encNormalize_of_no_shift hn).symm.trans h
    rw [normalizeBytes, if_neg hn, normalized, if_neg hn, afterWrites_nil, setEnc_self]

theorem responseP_lt (c : CodedBit) : c.responseP < 2048 := by
  cases c with
  | direct b => exact Nat.two_pow_pos 11
  | adaptive b p => exact newCell_lt b p.isLt

/-- The response word of a coded bit, on naturals (R76). -/
theorem responseWord_newP (st : Status) (c : CodedBit) :
    responseWord st false c.newP = response (statusCode st) 0 c.responseP := by
  have hp : c.newP.toNat = c.responseP := (BitVec.toNat_ofNat ..).trans (Nat.mod_eq_of_lt (responseP_lt c))
  rw [responseWord, hp, response, Bool.toNat_false]
  rfl

/-- R137, R138: a coded bit's whole next state, when the sink accepts its bytes and the count fits. -/
theorem exec_encCommand_accepted {c : CodedBit} {s : State} (hl : c.Legal) (hr : s.enc.phase = .ready)
    (ha : SinkAcceptsNext (normalizeBytes (c.narrow s.enc)).length s)
    (hf : NeedsShift (c.narrow s.enc).range → CountFits s.config (c.narrow s.enc)) :
    exec c.encCommand s = .next
      { afterWrites s (normalized (c.narrow s.enc)) (normalizeBytes (c.narrow s.enc)) with
        responses := s.responses ++ [response 0 0 c.responseP] } := by
  have hn := encNormalize_accepted (s := s.setEnc (c.narrow s.enc)) ha hf
  rw [exec_encCommand hl hr, CodedBit.encWork, hn, andThen_go, commandEnd_go]
  exact congrArg (fun r => Host.Outcome.next { afterWrites s _ _ with responses := s.responses ++ [r] }) (responseWord_newP .ok c)

theorem narrow_direct (b : Bool) (e : EncUnit) :
    (CodedBit.direct b).narrow e =
      { e with
        range := BitVec.ofNat 32 (e.range.toNat / 2)
        low := BitVec.ofNat 33 (if b then e.low.toNat + e.range.toNat / 2 else e.low.toNat) } := by
  cases b <;> rfl

/-- Settles O18: the halved range is the width of either outcome. -/
theorem encDirectCodesTheBit : Obligations.EncDirectCodesTheBit := by
  intro b s half e hr ha hf
  have he : (CodedBit.direct b).narrow s.enc = e := narrow_direct b s.enc
  rw [← he] at ha hf ⊢
  exact exec_encCommand_accepted (c := .direct b) trivial hr ha hf

/-- Settles O19: Bound is the width of the 0 outcome, and the rest of the range that of the 1 outcome. -/
theorem encBitCodesTheBit : Obligations.EncBitCodesTheBit :=
  fun b p _ hp hr ha hf => exec_encCommand_accepted (c := .adaptive b p) hp hr ha hf

/-! ### ENC.INIT -/

/-- R74 (b), (c): OP = 0 with B or P non-zero. -/
theorem illegalWord_of_encInit {w : CommandWord} (ho : w.toNat % 16 = 0) (hw : w ≠ 0x0000#16) : IllegalWord w := by
  have hz : w.toNat ≠ 0 := fun h => hw (BitVec.eq_of_toNat_eq h)
  by_cases hp : w.toNat / 32 = 0
  · exact .inr (.inl ⟨by omega, by simp [ho]⟩)
  · exact .inr (.inr (.inl ⟨hp, by simp [ho]⟩))

/-- Settles O17: its word with B or P non-zero is illegal, and the session start writes every register. -/
theorem encInitStartsASession : Obligations.EncInitStartsASession :=
  ⟨fun w ho hw => (decode_eq_error_iff w).2 (illegalWord_of_encInit ho hw), exec_encInit⟩

end Sys2Proof.Machine
end

section
/-! PROOFS. ENC.FLUSH (41_encoder.md R139, R140): five ShiftLows and the sink flush as one exact next state, the bytes as the digits
of the number held back, and when the five counts fit: O20, O44. -/

namespace Sys2Proof.Machine

/-! ### Several ShiftLows -/

theorem shiftLowRepeat_accepted {n : Nat} {s : State} (ha : SinkAcceptsNext (shiftsBytes n s.enc).length s)
    (hf : ShiftsFit s.config n s.enc) :
    shiftLowRepeat n s = .go () (afterWrites s (afterShifts n s.enc) (shiftsBytes n s.enc)) := by
  induction n generalizing s with
  | zero => rw [shiftsBytes_zero, afterWrites_nil]; rfl
  | succ n ih =>
    obtain ⟨hf1, hfn⟩ := (shiftsFit_succ ..).1 hf
    rw [shiftsBytes_succ, List.length_append] at ha
    obtain ⟨ha1, han⟩ := (sinkAcceptsNext_add (shifted s.enc)).1 ha
    rw [shiftLowRepeat, shiftLow_accepted ha1 hf1, andThen_go, ih han hfn]
    exact congrArg (Flow.go ()) (afterWrites_afterWrites ..)

theorem shiftLowRepeat_go_eq {n : Nat} {s t : State} (h : shiftLowRepeat n s = .go () t) :
    t = afterWrites s (afterShifts n s.enc) (shiftsBytes n s.enc) := by
  induction n generalizing s with
  | zero => cases h; exact (afterWrites_nil t t.enc).symm
  | succ n ih =>
    obtain ⟨_, u, hu, h⟩ := andThen_eq_go h
    rw [ih h, shiftLow_go_eq hu]
    exact afterWrites_afterWrites ..

/-! ### ENC after the five ShiftLows -/

/-- After four ShiftLows no bit of low is left. -/
theorem afterShifts_four_low (e : EncUnit) : (afterShifts 4 e).low.toNat = 0 := by
  simp only [afterShifts_succ, afterShifts_zero, shifted_low_toNat]
  omega

theorem not_defers_afterShifts_four (e : EncUnit) : ¬ Defers (afterShifts 4 e) := by
  rw [Defers, afterShifts_four_low]
  omega

/-- R139: the fifth ShiftLow takes the flush path with low = 0. -/
theorem afterShifts_five (e : EncUnit) :
    afterShifts 5 e = { range := e.range, low := 0#33, cache := 0x00#8, cacheSize := 1, phase := e.phase } := by
  have hd := not_defers_afterShifts_four e
  change shifted (afterShifts 4 e) = _
  rw [shifted, if_neg hd, if_neg hd, afterShifts_four_low, afterShifts_range, afterShifts_phase]
  rfl

/-! ### The whole command -/

theorem sinkFlush_accepted {s : State} (h : SinkAcceptsNext 1 s) :
    sinkFlush s = .go () (s.setSink
      { s.sink with released := s.sink.written.length, answers := s.sink.answers.drop 1 }) := by
  obtain ⟨-, e⟩ | ⟨he, -⟩ := sinkFlush_cases s
  · rw [e, List.drop_one]
  · exact absurd he (head?_ne_err_of_accepts h)

/-- R139, R60: ENC.FLUSH's whole next state, when the five counts fit and the sink accepts the bytes and the flush. -/
theorem exec_encFlush_accepted {s : State} (hr : s.enc.phase = .ready) (hf : ShiftsFit s.config 5 s.enc)
    (ha : SinkAcceptsNext ((shiftsBytes 5 s.enc).length + 1) s) :
    exec .encFlush s = .next
      { s with
        enc := { range := s.enc.range, low := 0#33, cache := 0x00#8, cacheSize := 1, phase := .flushed }
        sink :=
          { written := s.sink.written ++ shiftsBytes 5 s.enc
            released := (s.sink.written ++ shiftsBytes 5 s.enc).length
            answers := s.sink.answers.drop ((shiftsBytes 5 s.enc).length + 1) }
        responses := s.responses ++ [0x0000#16] } := by
  obtain ⟨hbytes, hflush⟩ := (sinkAcceptsNext_add (afterShifts 5 s.enc)).1 ha
  rw [exec_encFlush hr, flushWork, shiftLowRepeat_accepted hbytes hf, andThen_go, sinkFlush_accepted hflush, andThen_go,
    afterShifts_five, ← List.drop_drop]
  rfl

/-! ### The digits of a number -/

/-- The first digits are those of the quotient. -/
theorem bigEndian_add (m n v : Nat) : bigEndian (m + n) v = bigEndian m (v / 256 ^ n) ++ bigEndian n v := by
  induction m with
  | zero => rw [Nat.zero_add]; rfl
  | succ m ih =>
    rw [Nat.add_right_comm, bigEndian, bigEndian, ih, Nat.div_div_eq_div_mul, ← Nat.pow_add, Nat.add_comm n m]
    rfl

theorem bigEndian_length (n v : Nat) : (bigEndian n v).length = n := by
  induction n with
  | zero => rfl
  | succ n ih => rw [bigEndian, List.length_cons, ih]

/-- The last `n` digits do not see what stands before them. -/
theorem bigEndian_mul_pow_add (n q v : Nat) : bigEndian n (q * 256 ^ n + v) = bigEndian n v := by
  induction n generalizing q with
  | zero => rfl
  | succ n ih =>
    have hq : q * 256 ^ (n + 1) = q * 256 * 256 ^ n := by rw [Nat.pow_succ', Nat.mul_assoc]
    have hd : BitVec.ofNat 8 ((q * 256 * 256 ^ n + v) / 256 ^ n) = BitVec.ofNat 8 (v / 256 ^ n) := by
      rw [Nat.mul_comm _ (256 ^ n), Nat.mul_add_div (Nat.pow_pos (by decide))]
      apply BitVec.eq_of_toNat_eq
      simp only [BitVec.toNat_ofNat]
      omega
    rw [bigEndian, bigEndian, hq, ih, hd]

/-- A number shifted by `n` bytes has its own digits, and then `n` zeros. -/
theorem bigEndian_add_mul_pow (m n v : Nat) : bigEndian (m + n) (v * 256 ^ n) = bigEndian m v ++ bigEndian n 0 := by
  rw [bigEndian_add, Nat.mul_div_cancel _ (Nat.pow_pos (by decide)), ← bigEndian_mul_pow_add n v 0]
  rfl

/-- The carry runs through the pending 0xFF bytes: with it they are all 0x00, without it all 0xFF (R131, R132). -/
theorem bigEndian_pending {c : Nat} (hc : c ≤ 1) (n : Nat) :
    bigEndian n (256 ^ n - 1 + c) = List.replicate n (BitVec.ofNat 8 (0xFF + c)) := by
  induction n with
  | zero => rfl
  | succ n ih =>
    have hpos : 0 < 256 ^ n := Nat.pow_pos (by decide)
    have hs : 256 ^ (n + 1) - 1 + c = 0xFF * 256 ^ n + (256 ^ n - 1 + c) := by omega
    have hd : (0xFF * 256 ^ n + (256 ^ n - 1 + c)) / 256 ^ n = 0xFF + c := by
      rw [Nat.div_eq_iff hpos]
      obtain rfl | rfl : c = 0 ∨ c = 1 := by omega
      all_goals omega
    rw [bigEndian, hs, hd, bigEndian_mul_pow_add, ih, List.replicate_succ]

/-! ### The number held back -/

theorem heldNumber_eq {e : EncUnit} {n : Nat} (h : e.cacheSize = n + 1) :
    heldNumber e = (e.cache.toNat * 256 ^ n + (256 ^ n - 1)) * 2 ^ 32 + e.low.toNat := by
  rw [heldNumber, h, Nat.add_sub_cancel]

/-- On the defer path the number's digits stay, and it makes room for one more. -/
theorem heldNumber_shifted_of_defers {e : EncUnit} (h : 1 ≤ e.cacheSize) (hd : Defers e) :
    heldNumber (shifted e) = heldNumber e * 256 := by
  obtain ⟨n, hn⟩ := Nat.exists_eq_add_of_le' h
  have hpos : 0 < 256 ^ n := Nat.pow_pos (by decide)
  rw [heldNumber_eq (e := shifted e) ((shifted_cacheSize_of_defers hd).trans (congrArg (· + 1) hn)), heldNumber_eq hn,
    shifted_cache_of_defers hd, shifted_low_toNat, Nat.pow_succ, ← Nat.mul_assoc]
  obtain ⟨hlo, hhi⟩ := hd
  omega

/-- On the flush path the low 32 bits are what stays held back. -/
theorem heldNumber_shifted_of_not_defers {e : EncUnit} (hd : ¬ Defers e) :
    heldNumber (shifted e) = e.low.toNat % 2 ^ 32 * 256 := by
  rw [heldNumber_eq (e := shifted e) (shifted_cacheSize_of_not_defers hd), shifted_cache_of_not_defers hd, shifted_low_toNat,
    BitVec.toNat_ofNat]
  omega

/-- On the flush path the bytes are the digits above the low 32 bits, with the carry added in. -/
theorem shiftBytes_eq_bigEndian {e : EncUnit} {n : Nat} (hn : e.cacheSize = n + 1) (hd : ¬ Defers e) :
    shiftBytes e = bigEndian (n + 1) (heldNumber e / 2 ^ 32) := by
  have hpos : 0 < 256 ^ n := Nat.pow_pos (by decide)
  have hl := e.low.isLt
  have hc : e.low.toNat / 2 ^ 32 ≤ 1 := by omega
  have hv : heldNumber e / 2 ^ 32 = e.cache.toNat * 256 ^ n + (256 ^ n - 1 + e.low.toNat / 2 ^ 32) := by
    rw [heldNumber_eq hn]
    omega
  have hq : (256 ^ n - 1 + e.low.toNat / 2 ^ 32) / 256 ^ n = e.low.toNat / 2 ^ 32 := by
    rw [Nat.div_eq_iff hpos]
    obtain h | h : e.low.toNat / 2 ^ 32 = 0 ∨ e.low.toNat / 2 ^ 32 = 1 := by omega
    all_goals rw [h]; omega
  rw [shiftBytes, if_neg hd, hn, Nat.add_sub_cancel, hv, bigEndian, bigEndian_mul_pow_add, bigEndian_pending hc,
    Nat.mul_comm _ (256 ^ n), Nat.mul_add_div hpos, hq]

/-- One ShiftLow: its bytes and then what is still held back are the digits of the number shifted by one byte. -/
theorem shiftBytes_append_held {e : EncUnit} (h : 1 ≤ e.cacheSize) :
    shiftBytes e ++ bigEndian ((shifted e).cacheSize + 4) (heldNumber (shifted e)) =
      bigEndian (e.cacheSize + 5) (heldNumber e * 256) := by
  by_cases hd : Defers e
  · rw [shiftBytes_of_defers hd, heldNumber_shifted_of_defers h hd, shifted_cacheSize_of_defers hd, List.nil_append]
  · obtain ⟨n, hn⟩ := Nat.exists_eq_add_of_le' h
    have hq : heldNumber e * 256 / 256 ^ 5 = heldNumber e / 2 ^ 32 := by omega
    have hr : heldNumber e * 256 = heldNumber e / 2 ^ 32 * 256 ^ 5 + e.low.toNat % 2 ^ 32 * 256 := by
      have hm : heldNumber e % 2 ^ 32 = e.low.toNat % 2 ^ 32 := Nat.mul_add_mod_self_right ..
      omega
    rw [bigEndian_add e.cacheSize 5, hq, hn, ← shiftBytes_eq_bigEndian hn hd, hr, bigEndian_mul_pow_add,
      heldNumber_shifted_of_not_defers hd, shifted_cacheSize_of_not_defers hd]

theorem shiftsBytes_append_held {e : EncUnit} (h : 1 ≤ e.cacheSize) (n : Nat) :
    shiftsBytes n e ++ bigEndian ((afterShifts n e).cacheSize + 4) (heldNumber (afterShifts n e)) =
      bigEndian (e.cacheSize + 4 + n) (heldNumber e * 256 ^ n) := by
  induction n generalizing e with
  | zero => rw [Nat.pow_zero, Nat.mul_one]; rfl
  | succ n ih =>
    have hlen : e.cacheSize + 4 + (n + 1) = e.cacheSize + 5 + n := by omega
    rw [hlen, shiftsBytes_succ, afterShifts_succ, List.append_assoc, ih (one_le_shifted_cacheSize e), bigEndian_add_mul_pow,
      ← List.append_assoc, shiftBytes_append_held h, ← bigEndian_add_mul_pow, Nat.mul_assoc, ← Nat.pow_succ']

/-- R139, R140 (c): the five ShiftLows write the digits of the number held back. -/
theorem shiftsBytes_five {e : EncUnit} (h : 1 ≤ e.cacheSize) :
    shiftsBytes 5 e = bigEndian (e.cacheSize + 4) (heldNumber e) := by
  have hall := shiftsBytes_append_held h 5
  rw [bigEndian_add_mul_pow, afterShifts_five] at hall
  exact (List.append_inj' hall (by rw [bigEndian_length, bigEndian_length])).1

/-- Settles O20: the command's exact next state, and its bytes as digits. -/
theorem encFlushWritesTheHeldNumber : Obligations.EncFlushWritesTheHeldNumber :=
  ⟨fun _ hr hf ha => exec_encFlush_accepted hr hf ha, fun _ h => shiftsBytes_five h⟩

/-! ### When the five counts fit -/

theorem shifted_cacheSize_le (e : EncUnit) : (shifted e).cacheSize ≤ e.cacheSize + 1 := by
  by_cases hd : Defers e
  · exact (shifted_cacheSize_of_defers hd).le
  · rw [shifted_cacheSize_of_not_defers hd]
    omega

theorem one_le_afterShifts_cacheSize {e : EncUnit} (h : 1 ≤ e.cacheSize) (n : Nat) : 1 ≤ (afterShifts n e).cacheSize := by
  induction n generalizing e with
  | zero => exact h
  | succ n ih => exact ih (one_le_shifted_cacheSize e)

theorem afterShifts_cacheSize_le (n : Nat) (e : EncUnit) : (afterShifts n e).cacheSize ≤ e.cacheSize + n := by
  induction n generalizing e with
  | zero => exact le_rfl
  | succ n ih =>
    have hn := ih (shifted e)
    have h1 := shifted_cacheSize_le e
    rw [afterShifts_succ]
    omega

/-- The first four ShiftLows may each count one more; the fifth never does, since low is 0 by then. -/
theorem shiftsFit_five_of_room {c : Config} {e : EncUnit} (h : 1 ≤ e.cacheSize) (hroom : e.cacheSize + 4 < 2 ^ c.wCS) :
    ShiftsFit c 5 e := by
  intro k hk
  have hlo := one_le_afterShifts_cacheSize h k
  have hhi := afterShifts_cacheSize_le k e
  by_cases hd : Defers (afterShifts k e)
  · have hk4 : k ≠ 4 := by
      rintro rfl
      exact not_defers_afterShifts_four e hd
    rw [CountFits, if_pos hd]
    omega
  · rw [CountFits, if_neg hd]
    omega

/-- Settles O44: the counts fit, and O20's next state is with the digits' own length. -/
theorem flushFitsWithRoomForFour : Obligations.FlushFitsWithRoomForFour := by
  intro s h hroom bytes
  have hf := shiftsFit_five_of_room h hroom
  refine ⟨hf, fun hr ha => ?_⟩
  have hb : shiftsBytes 5 s.enc = bytes := shiftsBytes_five h
  have hlen : bytes.length + 1 = s.enc.cacheSize + 5 := congrArg (· + 1) (bigEndian_length ..)
  have hx := exec_encFlush_accepted hr hf (by rwa [hb, hlen])
  rwa [hb, hlen] at hx

end Sys2Proof.Machine
end

section
/-! PROOFS. How ENC's commands fail (41_encoder.md R134, R144; 60_exceptions.md R233, R236, R237): a sink that refuses one of the
bytes or the flush, and a count that does not fit: O21, O22, O23. -/

namespace Sys2Proof.Machine

/-! ### A sink that refuses -/

/-- The sink accepts `k` requests and answers ERR to the next one. -/
def SinkRefusesAfter (k : Nat) (rest : List SinkAnswer) (s : State) : Prop :=
  s.sink.answers = List.replicate k SinkAnswer.ok ++ SinkAnswer.err :: rest

/-- The state once the sink has accepted `bs` and answered ERR to the next request: the bytes stay (R51, R144). -/
def afterRefusal (s : State) (bs : List Byte) (rest : List SinkAnswer) : State :=
  s.setSink { s.sink with written := s.sink.written ++ bs, answers := rest }

section
variable {s : State} {k : Nat} {rest : List SinkAnswer} (h : SinkRefusesAfter k rest s)
include h

theorem SinkRefusesAfter.accepts {n : Nat} (hn : n ≤ k) : SinkAcceptsNext n s := by
  rw [SinkAcceptsNext, h, List.take_append_of_le_length (by rwa [List.length_replicate])]
  exact fun a ha => List.eq_of_mem_replicate (List.mem_of_mem_take ha)

theorem SinkRefusesAfter.of_accepted {bs : List Byte} (hn : bs.length ≤ k) (e : EncUnit) :
    SinkRefusesAfter (k - bs.length) rest (afterWrites s e bs) := by
  change s.sink.answers.drop bs.length = _
  rw [h, List.drop_append_of_le_length (by rwa [List.length_replicate]), List.drop_replicate]

end

theorem sinkWrite_refused {rest : List SinkAnswer} {s : State} (h : SinkRefusesAfter 0 rest s) (b : Byte) :
    sinkWrite b s = .raise .io (afterRefusal s [] rest) := by
  have ha : s.sink.answers = .err :: rest := h
  obtain ⟨he, -⟩ | ⟨-, e⟩ := sinkWrite_cases b s
  · exact absurd (congrArg List.head? ha) he
  · rw [e, ha, afterRefusal, List.append_nil, List.tail_cons]

theorem sinkFlush_refused {rest : List SinkAnswer} {s : State} (h : SinkRefusesAfter 0 rest s) :
    sinkFlush s = .raise .io (afterRefusal s [] rest) := by
  have ha : s.sink.answers = .err :: rest := h
  obtain ⟨he, -⟩ | ⟨-, e⟩ := sinkFlush_cases s
  · exact absurd (congrArg List.head? ha) he
  · rw [e, ha, afterRefusal, List.append_nil, List.tail_cons]

/-- The bytes after the refused one are not written (R12). -/
theorem writeBytes_refused {bs : List Byte} {k : Nat} {rest : List SinkAnswer} {s : State} (hk : k < bs.length)
    (h : SinkRefusesAfter k rest s) : writeBytes bs s = .raise .io (afterRefusal s (bs.take k) rest) := by
  induction bs generalizing k s with
  | nil => exact absurd hk k.not_lt_zero
  | cons b bs ih =>
    cases k with
    | zero => rw [writeBytes, sinkWrite_refused h, andThen_raise, List.take_zero]
    | succ k =>
      have h1 := h.of_accepted (bs := [b]) k.succ_pos s.enc
      rw [writeBytes, sinkWrite_accepted (h.accepts k.succ_pos), andThen_go, ih (Nat.lt_of_succ_lt_succ hk) h1]
      simp only [afterRefusal, List.take_succ_cons, afterWrites, List.append_assoc, List.cons_append, List.nil_append]
      rfl

/-! ### ShiftLow and EncNormalize that raise -/

theorem shiftLow_refused {k : Nat} {rest : List SinkAnswer} {s : State} (hd : ¬ Defers s.enc) (hk : k < s.enc.cacheSize)
    (h : SinkRefusesAfter k rest s) : shiftLow s = .raise .io (afterRefusal s ((shiftBytes s.enc).take k) rest) := by
  have hlen : k < (shiftBytes s.enc).length := by
    rw [shiftBytes_length, if_neg hd]
    omega
  rw [shiftLow_of_not_defers hd (Nat.ne_zero_of_lt hk), writeBytes_refused hlen h, andThen_raise]

/-- R134: a count that does not fit raises before any byte of this ShiftLow. -/
theorem shiftLow_of_not_fits {s : State} (hw : s.config.wf = true) (h : ¬ CountFits s.config s.enc) :
    shiftLow s = .raise .invariant s := by
  have hone := one_lt_two_pow_wCS hw
  by_cases hd : Defers s.enc
  · rw [CountFits, if_pos hd, not_not] at h
    rw [shiftLow_of_defers hd]
    exact if_pos ((eq_maxCacheSize_iff ..).2 h)
  · rw [CountFits, if_neg hd] at h
    have hz : s.enc.cacheSize = 0 := by omega
    rw [shiftLow, if_pos ((takesFlushPath_iff _).2 hd), if_pos hz]

theorem exec_encCommand_raise {c : CodedBit} {s t : State} {f : Fatal} (hl : c.Legal) (hr : s.enc.phase = .ready)
    (h : encNormalize (s.setEnc (c.narrow s.enc)) = .raise f t) :
    exec c.encCommand s = .next (takeFatal .enc f c.newP t) := by
  rw [exec_encCommand hl hr, CodedBit.encWork, h, andThen_raise, commandEnd_raise]

/-- The response of a failed bit holds its updated P (R76). -/
theorem takeFatal_newP_responses (f : Fatal) (c : CodedBit) (s : State) :
    (takeFatal .enc f c.newP s).responses = s.responses ++ [response (statusCode (fatalStatus f)) 0 c.responseP] := by
  rw [takeFatal_responses, responseWord_newP]

/-- Settles O21: the shift's bytes are refused after the range is shifted, and the failed ENC overwrites that. -/
theorem sinkFailureEndsTheBit : Obligations.SinkFailureEndsTheBit := by
  intro c s k rest hl hr hn hd hk ha
  have hx : encNormalize (s.setEnc (c.narrow s.enc)) = .raise .io _ :=
    (encNormalize_of_shift hn).trans (shiftLow_refused (s := s.setEnc (rangeShifted (c.narrow s.enc))) hd hk ha)
  exact ⟨_, exec_encCommand_raise hl hr hx, rfl, rfl, takeFatal_newP_responses .io c _, rfl, rfl, rfl, rfl⟩

/-! ### The ShiftLows of ENC.FLUSH -/

theorem shiftLowRepeat_add (m n : Nat) (s : State) :
    shiftLowRepeat (m + n) s = andThen (shiftLowRepeat m s) fun _ t => shiftLowRepeat n t := by
  induction m generalizing s with
  | zero => rw [Nat.zero_add]; rfl
  | succ m ih =>
    rw [Nat.add_right_comm, shiftLowRepeat, shiftLowRepeat]
    cases shiftLow s with
    | go a t => exact ih t
    | raise f t => rfl

/-- A raise in any of the five ShiftLows ends ENC.FLUSH. -/
theorem flushWork_of_shifts_raise {m : Nat} {s t : State} {f : Fatal} (hm : m ≤ 5) (h : shiftLowRepeat m s = .raise f t) :
    flushWork s = .raise f t := by
  have hs : shiftLowRepeat 5 s = .raise f t := by
    rw [← Nat.add_sub_cancel' hm, shiftLowRepeat_add, h, andThen_raise]
  rw [flushWork, hs, andThen_raise]

theorem exec_encFlush_raise {s t : State} {f : Fatal} (hr : s.enc.phase = .ready) (h : flushWork s = .raise f t) :
    exec .encFlush s = .next (takeFatal .enc f 0#11 t) := by
  rw [exec_encFlush hr, h, commandEnd_raise]

/-- The refused byte may be of any of the ShiftLows; what ENC holds then is overwritten when it fails. -/
theorem shiftLowRepeat_refused {n k : Nat} {rest : List SinkAnswer} {s : State} (hf : ShiftsFit s.config n s.enc)
    (hk : k < (shiftsBytes n s.enc).length) (h : SinkRefusesAfter k rest s) :
    ∃ e, shiftLowRepeat n s = .raise .io ((afterRefusal s ((shiftsBytes n s.enc).take k) rest).setEnc e) := by
  induction n generalizing k s with
  | zero => exact absurd hk k.not_lt_zero
  | succ n ih =>
    obtain ⟨hf1, hfn⟩ := (shiftsFit_succ ..).1 hf
    rw [shiftsBytes_succ, List.length_append] at hk
    rw [shiftsBytes_succ]
    by_cases hk1 : k < (shiftBytes s.enc).length
    · refine ⟨s.enc, ?_⟩
      rw [shiftLowRepeat, shiftLow_of_fits hf1, writeBytes_refused hk1 h, List.take_append_of_le_length hk1.le]
      rfl
    · have hle := Nat.le_of_not_lt hk1
      have hkn : k - (shiftBytes s.enc).length < (shiftsBytes n (shifted s.enc)).length := by omega
      obtain ⟨e, he⟩ := ih (s := afterWrites s (shifted s.enc) (shiftBytes s.enc)) hfn hkn (h.of_accepted hle _)
      refine ⟨e, ?_⟩
      rw [shiftLowRepeat, shiftLow_accepted (h.accepts hle) hf1, andThen_go, he, List.take_append,
        List.take_of_length_le hle, afterRefusal, afterRefusal, ← List.append_assoc]
      rfl

theorem flushWork_refused_at_flush {rest : List SinkAnswer} {s : State} (hf : ShiftsFit s.config 5 s.enc)
    (h : SinkRefusesAfter (shiftsBytes 5 s.enc).length rest s) :
    ∃ e, flushWork s = .raise .io ((afterRefusal s (shiftsBytes 5 s.enc) rest).setEnc e) := by
  have hflush := h.of_accepted le_rfl (afterShifts 5 s.enc)
  rw [Nat.sub_self] at hflush
  refine ⟨afterShifts 5 s.enc, ?_⟩
  rw [flushWork, shiftLowRepeat_accepted (h.accepts le_rfl) hf, andThen_go, sinkFlush_refused hflush, andThen_raise, afterRefusal,
    List.append_nil]
  rfl

/-- Settles O22: the refused byte is of one of the first `m` ShiftLows, or the flush is refused after all five. -/
theorem sinkFailureEndsTheFlush : Obligations.SinkFailureEndsTheFlush := by
  intro s m k rest hr hm hf hk ha
  obtain ⟨e, hx⟩ : ∃ e, flushWork s = .raise .io ((afterRefusal s ((shiftsBytes m s.enc).take k) rest).setEnc e) := by
    obtain hk | ⟨rfl, rfl⟩ := hk
    · obtain ⟨e, he⟩ := shiftLowRepeat_refused hf hk ha
      exact ⟨e, flushWork_of_shifts_raise hm he⟩
    · rw [List.take_length]
      exact flushWork_refused_at_flush hf ha
  exact ⟨_, exec_encFlush_raise hr hx, rfl, rfl, rfl, rfl, rfl, rfl, rfl⟩

/-! ### Counts that do not fit -/

theorem shiftLowRepeat_of_not_fits {m : Nat} {s : State} (hw : s.config.wf = true) (hf : ShiftsFit s.config m s.enc)
    (h : ¬ CountFits s.config (afterShifts m s.enc)) (ha : SinkAcceptsNext (shiftsBytes m s.enc).length s) :
    shiftLowRepeat (m + 1) s = .raise .invariant (afterWrites s (afterShifts m s.enc) (shiftsBytes m s.enc)) := by
  have hx := shiftLow_of_not_fits (s := afterWrites s (afterShifts m s.enc) (shiftsBytes m s.enc)) hw h
  rw [shiftLowRepeat_add, shiftLowRepeat_accepted ha hf, andThen_go, shiftLowRepeat, hx, andThen_raise]

/-- Settles O23: the ShiftLow that does not fit raises in the state the earlier work left. -/
theorem countChecksEndTheCommand : Obligations.CountChecksEndTheCommand := by
  refine ⟨fun c s hw hl hr hn hf => ?_, fun s m hw hr hm hf h ha => ?_⟩
  · have hx := (encNormalize_of_shift (s := s.setEnc (c.narrow s.enc)) hn).trans
      (shiftLow_of_not_fits (s := s.setEnc (rangeShifted (c.narrow s.enc))) hw hf)
    exact ⟨_, exec_encCommand_raise hl hr hx, rfl, takeFatal_newP_responses .invariant c _, rfl, rfl, rfl, rfl, rfl⟩
  · have hx := flushWork_of_shifts_raise hm (shiftLowRepeat_of_not_fits hw hf h ha)
    exact ⟨_, exec_encFlush_raise hr hx, rfl, rfl, rfl, rfl, rfl, rfl, rfl⟩

end Sys2Proof.Machine
end

section
/-! PROOFS. Bytes against ShiftLows, and a whole session (41_encoder.md R140, R142; 20_memory.md R63): `Emits` says once what a
command of a session does to the stream, and the session is its commands one after another: O24, O28. -/

namespace Sys2Proof.Machine

/-! ### Bytes written plus bytes held back -/

theorem shiftBytes_length_add_of_fits {c : Config} {e : EncUnit} (h : CountFits c e) :
    (shiftBytes e).length + (shifted e).cacheSize = e.cacheSize + 1 := by
  by_cases hd : Defers e
  · rw [shiftBytes_of_defers hd, shifted_cacheSize_of_defers hd, List.length_nil, Nat.zero_add]
  · rw [CountFits, if_neg hd] at h
    exact shiftBytes_length_add (Nat.pos_of_ne_zero h.1)

theorem normalizeBytes_length_add {c : Config} {e : EncUnit} (h : NeedsShift e.range → CountFits c e) :
    (normalizeBytes e).length + (normalized e).cacheSize = e.cacheSize + (if NeedsShift e.range then 1 else 0) := by
  by_cases hn : NeedsShift e.range
  · rw [normalizeBytes, normalized, if_pos hn, if_pos hn, if_pos hn]
    exact shiftBytes_length_add_of_fits (e := rangeShifted e) (h hn)
  · rw [normalizeBytes, normalized, if_neg hn, if_neg hn, if_neg hn, List.length_nil, Nat.zero_add, Nat.add_zero]

theorem shiftsBytes_length_add {c : Config} {n : Nat} {e : EncUnit} (h : ShiftsFit c n e) :
    (shiftsBytes n e).length + (afterShifts n e).cacheSize = e.cacheSize + n := by
  induction n generalizing e with
  | zero => exact Nat.zero_add _
  | succ n ih =>
    obtain ⟨h1, hn⟩ := (shiftsFit_succ ..).1 h
    have hfirst := shiftBytes_length_add_of_fits h1
    have hrest := ih hn
    rw [shiftsBytes_succ, afterShifts_succ, List.length_append]
    omega

/-! ### The first byte of a session -/

/-- The byte held back is the 0x00 of the session start, and low has no carry to add to it. -/
def HoldsZero (e : EncUnit) : Prop := e.cache = 0x00#8 ∧ e.low.toNat < 2 ^ 32

/-- HoldsZero, and no coded bit can bring a carry: the interval stays below 2^32. -/
def HoldsZeroInterval (e : EncUnit) : Prop := e.cache = 0x00#8 ∧ e.low.toNat + e.range.toNat < 2 ^ 32

/-- `bs` begins with 0x00. -/
def BeginsWithZero (bs : List Byte) : Prop := bs.head? = some 0x00#8

theorem HoldsZeroInterval.holdsZero {e : EncUnit} (h : HoldsZeroInterval e) : HoldsZero e :=
  ⟨h.1, (Nat.le_add_right ..).trans_lt h.2⟩

/-- The flush path writes the 0x00, with no carry. -/
theorem HoldsZero.shiftBytes_beginsWithZero {e : EncUnit} (h : HoldsZero e) (hd : ¬ Defers e) : BeginsWithZero (shiftBytes e) := by
  obtain ⟨hc, hl⟩ := h
  rw [shiftBytes, if_neg hd, hc, Nat.div_eq_of_lt hl]
  rfl

theorem HoldsZero.shifted_of_defers {e : EncUnit} (h : HoldsZero e) (hd : Defers e) : HoldsZero (shifted e) := by
  refine ⟨(shifted_cache_of_defers hd).trans h.1, ?_⟩
  rw [shifted_low_toNat]
  omega

theorem HoldsZero.shiftsBytes_cases {e : EncUnit} (h : HoldsZero e) (n : Nat) :
    shiftsBytes n e = [] ∨ BeginsWithZero (shiftsBytes n e) := by
  induction n generalizing e with
  | zero => exact .inl rfl
  | succ n ih =>
    rw [shiftsBytes_succ]
    by_cases hd : Defers e
    · rw [shiftBytes_of_defers hd, List.nil_append]
      exact ih (h.shifted_of_defers hd)
    · rw [BeginsWithZero, List.head?_append, h.shiftBytes_beginsWithZero hd]
      exact .inr rfl

/-- R142: a deferring ShiftLow takes 0xFF000000 off both ends of the interval, so that it stays below 2^32 when shifted. -/
theorem HoldsZeroInterval.normalizeBytes_cases {e : EncUnit} (h : HoldsZeroInterval e) :
    (normalizeBytes e = [] ∧ HoldsZeroInterval (normalized e)) ∨ BeginsWithZero (normalizeBytes e) := by
  by_cases hn : NeedsShift e.range
  · rw [normalizeBytes, normalized, if_pos hn, if_pos hn]
    by_cases hd : Defers e
    · refine .inl ⟨shiftBytes_of_defers hd, (shifted_cache_of_defers (e := rangeShifted e) hd).trans h.1, ?_⟩
      rw [shifted_low_toNat, shifted_range, toNat_rangeShifted hn, rangeShifted_low]
      have hlt := h.2
      have hlo := hd.1
      omega
    · exact .inr (h.holdsZero.shiftBytes_beginsWithZero hd)
  · rw [normalizeBytes, normalized, if_neg hn, if_neg hn]
    exact .inl ⟨rfl, h⟩

theorem HoldsZeroInterval.narrow {e : EncUnit} (h : HoldsZeroInterval e) (c : CodedBit) : HoldsZeroInterval (c.narrow e) :=
  ⟨h.1, (narrow_low_add_range_le c e).trans_lt h.2⟩

/-! ### What a command of a session does to the stream -/

/-- The bytes `bs` come to the stream by `n` ShiftLows; as long as none has come, the 0x00 is still held back. -/
structure Emits (s t : State) (bs : List Byte) (n : Nat) : Prop where
  written : t.sink.written = s.sink.written ++ bs
  count : bs.length + t.enc.cacheSize = s.enc.cacheSize + n
  first : HoldsZeroInterval s.enc → (bs = [] ∧ HoldsZeroInterval t.enc) ∨ BeginsWithZero bs

theorem Emits.bytesSince_eq {s t : State} {bs : List Byte} {n : Nat} (h : Emits s t bs n) : bytesSince s t = bs := by
  rw [bytesSince, h.written, List.drop_left]

theorem Emits.refl (s : State) : Emits s s [] 0 :=
  ⟨(List.append_nil _).symm, Nat.zero_add _, fun h => .inl ⟨rfl, h⟩⟩

theorem Emits.trans {s t u : State} {as bs : List Byte} {m n : Nat} (h : Emits s t as m) (k : Emits t u bs n) :
    Emits s u (as ++ bs) (m + n) := by
  refine ⟨by rw [k.written, h.written, List.append_assoc], ?_, fun hz => ?_⟩
  · have hm := h.count
    have hn := k.count
    rw [List.length_append]
    omega
  · obtain ⟨rfl, hz⟩ | hz := h.first hz
    · exact k.first hz
    · exact .inr (by rw [BeginsWithZero, List.head?_append, hz]; rfl)

/-- A coded bit that completes. -/
theorem emits_encWork {c : CodedBit} {s t : State} {a : Bool × Prob} (h : c.encWork s = .go a t) :
    Emits s t (normalizeBytes (c.narrow s.enc)) (if NeedsShift (c.narrow s.enc).range then 1 else 0) := by
  have hfit := (encWork_go h).1
  obtain ⟨_, u, hu, h⟩ := andThen_eq_go h
  have hu := encNormalize_go_eq hu
  cases h
  rw [hu]
  exact ⟨rfl, normalizeBytes_length_add hfit, fun hz => (hz.narrow c).normalizeBytes_cases⟩

theorem flushWork_go_written {s t : State} {a : Bool × Prob} (h : flushWork s = .go a t) :
    t.sink.written = s.sink.written ++ shiftsBytes 5 s.enc := by
  obtain ⟨_, u, hu, h⟩ := andThen_eq_go h
  obtain ⟨_, v, hv, h⟩ := andThen_eq_go h
  have hu := shiftLowRepeat_go_eq hu
  obtain ⟨-, e⟩ | ⟨-, e⟩ := sinkFlush_cases u <;> cases e.symm.trans hv
  cases h
  rw [hu]
  rfl

/-- An ENC.FLUSH that completes; its fifth ShiftLow writes at least one byte, so the 0x00 has come by then. -/
theorem emits_flushWork {s t : State} {a : Bool × Prob} (h : flushWork s = .go a t) :
    Emits s t (shiftsBytes 5 s.enc) 5 ∧ t.enc.cacheSize = 1 := by
  obtain ⟨-, hfit, he⟩ := flushWork_go h
  have hsize : t.enc.cacheSize = 1 := by rw [he, afterShifts_five]
  have hcount : (shiftsBytes 5 s.enc).length + t.enc.cacheSize = s.enc.cacheSize + 5 := he ▸ shiftsBytes_length_add hfit
  have hne : shiftsBytes 5 s.enc ≠ [] := List.length_pos_iff.1 (by omega)
  exact ⟨⟨flushWork_go_written h, hcount, fun hz => .inr ((hz.holdsZero.shiftsBytes_cases 5).resolve_left hne)⟩, hsize⟩

theorem Emits.respond {s t : State} {bs : List Byte} {n : Nat} (h : Emits s t bs n) (st : Status) (bit : Bool) (p : Prob) :
    Emits s (t.respond st bit p) bs n := ⟨h.written, h.count, h.first⟩

theorem Emits.written_length_add {s t : State} {bs : List Byte} {n : Nat} (h : Emits s t bs n) :
    t.sink.written.length + t.enc.cacheSize = s.sink.written.length + s.enc.cacheSize + n := by
  have hc := h.count
  rw [h.written, List.length_append]
  omega

/-- Settles O24: a command that did not fail emits its ShiftLows' bytes. -/
theorem bytesCountShifts : Obligations.BytesCountShifts := by
  refine ⟨fun c s t hl hr hx ht => ?_, fun s t hr hx ht => ?_⟩
  · cases hx.symm.trans (exec_encCommand hl hr)
    cases hw : c.encWork s with
    | go a u => exact ((emits_encWork hw).respond .ok a.1 a.2).written_length_add
    | raise f u => rw [hw] at ht; cases ht
  · cases hx.symm.trans (exec_encFlush hr)
    cases hw : flushWork s with
    | go a u => exact ((emits_flushWork hw).1.respond .ok a.1 a.2).written_length_add
    | raise f u => rw [hw] at ht; cases ht

/-! ### Responses that are all OK -/

theorem allOk_iff_status {s t : State} {st : Status} {bit : Bool} {p : Prob}
    (h : t.responses = s.responses ++ [responseWord st bit p]) : AllOk s t ↔ statusCode st = 0 := by
  rw [AllOk, responsesSince_append h, List.all_cons, List.all_nil, Bool.and_true, beq_iff_eq, responseWord_status]

theorem allOk_trans {s t u : State} (h : s.responses <+: t.responses) (k : t.responses <+: u.responses) :
    AllOk s u ↔ AllOk s t ∧ AllOk t u := by
  obtain ⟨as, h⟩ := h
  obtain ⟨bs, k⟩ := k
  have hu : u.responses = s.responses ++ (as ++ bs) := by rw [← k, ← h, List.append_assoc]
  rw [AllOk, AllOk, AllOk, responsesSince_append hu, responsesSince_append h.symm, responsesSince_append k.symm, List.all_append,
    Bool.and_eq_true]

/-- Work answered OK has gone through. -/
theorem go_of_allOk {s : State} {x : Flow (Bool × Prob)} {u : CoderUnit} {q : Prob} (hr : x.state.responses = s.responses)
    (h : AllOk s (commandEnd u q x)) : ∃ a t, x = .go a t := by
  cases x with
  | go a t => exact ⟨a, t, rfl⟩
  | raise f t =>
    have hf := (allOk_iff_status ((takeFatal_responses u f q t).trans (congrArg (· ++ _) hr))).1 h
    have h3 := three_le_fatalStatus f
    omega

theorem not_allOk_refuseIllegal (s : State) : ¬ AllOk s (refuseIllegal s) :=
  fun h => nomatch (allOk_iff_status (respond_responses s .errIllegal false 0#11)).1 h

theorem not_allOk_refuseSeq (s : State) : ¬ AllOk s (refuseSeq s) :=
  fun h => nomatch (allOk_iff_status (respond_responses s .errSeq false 0#11)).1 h

/-- A command answered OK was no illegal word and in its phase. -/
theorem CommandRun.accepted_of_allOk {i : Instr} {s t : State} (h : CommandRun s i t) (hok : AllOk s t) :
    i.wf = true ∧ AcceptedIn i s := by
  have hw : i.wf = true := by
    by_contra hw
    rw [h.unique (.illegal (Bool.eq_false_of_not_eq_true hw))] at hok
    exact not_allOk_refuseIllegal s hok
  refine ⟨hw, ?_⟩
  by_contra ha
  rw [h.unique (.outOfPhase hw ha)] at hok
  exact not_allOk_refuseSeq s hok

theorem legal_of_wf_encCommand {c : CodedBit} (h : c.encCommand.wf = true) : c.Legal := by
  cases c with
  | direct b => trivial
  | adaptive b p => exact (cellLegal_eq_true p).1 h

/-- A coded bit answered OK. -/
theorem CommandRun.emits_encCommand {c : CodedBit} {s t : State} (h : CommandRun s c.encCommand t) (hok : AllOk s t) :
    Emits s t (normalizeBytes (c.narrow s.enc)) (if NeedsShift (c.narrow s.enc).range then 1 else 0) := by
  obtain ⟨hw, ha⟩ := h.accepted_of_allOk hok
  have hr := encReady_of_acceptedIn (isEncCommand_encCommand c) (by cases c <;> nofun) ha
  obtain rfl := h.unique (.encBit c (legal_of_wf_encCommand hw) hr)
  obtain ⟨a, u, hx⟩ := go_of_allOk (responses_of_encInto (encWork_encInto c) s) hok
  rw [hx]
  exact (emits_encWork hx).respond .ok a.1 a.2

/-- An ENC.FLUSH answered OK. -/
theorem CommandRun.emits_encFlush {s t : State} (h : CommandRun s .encFlush t) (hok : AllOk s t) :
    Emits s t (shiftsBytes 5 s.enc) 5 ∧ t.enc.cacheSize = 1 := by
  obtain rfl := h.unique (.encFlush (h.accepted_of_allOk hok).2)
  obtain ⟨a, u, hx⟩ := go_of_allOk (responses_of_encInto flushWork_encInto s) hok
  obtain ⟨hemit, hsize⟩ := emits_flushWork hx
  rw [hx]
  exact ⟨hemit.respond .ok a.1 a.2, hsize⟩

/-! ### A session -/

theorem runCommands_cons {i : Instr} {s t : State} (h : CommandRun s i t) (is : List Instr) :
    runCommands (i :: is) s = runCommands is t := by
  rw [runCommands, h.exec_eq]

theorem runCommands_append (is js : List Instr) (s : State) :
    runCommands (is ++ js) s = runCommands js (runCommands is s) := by
  induction is generalizing s with
  | nil => rfl
  | cons i is ih =>
    obtain ⟨t, h⟩ := exists_commandRun i s
    rw [List.cons_append, runCommands_cons h, runCommands_cons h, ih]

theorem runCommands_responses_prefix (is : List Instr) (s : State) : s.responses <+: (runCommands is s).responses := by
  induction is generalizing s with
  | nil => exact List.prefix_rfl
  | cons i is ih =>
    obtain ⟨t, h⟩ := exists_commandRun i s
    rw [runCommands_cons h]
    exact h.responses_prefix.trans (ih t)

/-- The coded bits of a session, all answered OK. -/
theorem emits_codedBits {cs : List CodedBit} {s : State} (h : AllOk s (runCommands (cs.map CodedBit.encCommand) s)) :
    ∃ bs, Emits s (runCommands (cs.map CodedBit.encCommand) s) bs (shiftCount cs s) := by
  induction cs generalizing s with
  | nil => exact ⟨[], Emits.refl s⟩
  | cons c cs ih =>
    obtain ⟨t, hc⟩ := exists_commandRun c.encCommand s
    rw [List.map_cons, runCommands_cons hc] at h ⊢
    obtain ⟨hfirst, hrest⟩ := (allOk_trans hc.responses_prefix (runCommands_responses_prefix _ t)).1 h
    obtain ⟨bs, hbs⟩ := ih hrest
    rw [shiftCount, runCommands_cons hc]
    exact ⟨_, (hc.emits_encCommand hfirst).trans hbs⟩

/-- A whole session, all answered OK: the bits' bytes, then the flush's, and the flush leaves one byte held back. -/
theorem emits_encSession {cs : List CodedBit} {s : State} (h : AllOk s (encSession cs s)) :
    ∃ bs, Emits s (encSession cs s) bs (shiftCount cs s + 5) ∧ (encSession cs s).enc.cacheSize = 1 := by
  obtain ⟨t, hflush⟩ := exists_commandRun .encFlush (runCommands (cs.map CodedBit.encCommand) s)
  have hrun : encSession cs s = t := (runCommands_append ..).trans (runCommands_cons hflush [])
  rw [hrun] at h ⊢
  obtain ⟨hbits, hlast⟩ := (allOk_trans (runCommands_responses_prefix _ s) hflush.responses_prefix).1 h
  obtain ⟨bs, hbs⟩ := emits_codedBits hbits
  obtain ⟨hemit, hsize⟩ := hflush.emits_encFlush hlast
  exact ⟨_, hbs.trans hemit, hsize⟩

theorem holdsZeroInterval_of_encStart {s : State} (h : AtEncStart s) : HoldsZeroInterval s.enc := by
  rw [h, HoldsZeroInterval]
  decide

/-- Settles O28: one byte is held back at both ends of the session, and the first byte to come is the 0x00 held at its start. -/
theorem sessionStreamBeginsWithZero : Obligations.SessionStreamBeginsWithZero := by
  intro cs s hs hok
  obtain ⟨bs, hemit, hsize⟩ := emits_encSession hok
  have hstart : s.enc.cacheSize = 1 := by rw [hs]
  have hcount := hemit.count
  have hlen : bs.length = shiftCount cs s + 5 := by omega
  rw [hemit.bytesSince_eq]
  refine ⟨?_, hlen⟩
  obtain ⟨rfl, -⟩ | hzero := hemit.first (holdsZeroInterval_of_encStart hs)
  · cases hlen
  · exact hzero

end Sys2Proof.Machine
end

section
/-! PROOFS. The decoder commands as exact next states (42_decoder.md R180 to R184): a source that answers with bytes, the header,
and one decoded bit: O29, O31, O32, O33. -/

namespace Sys2Proof.Machine

/-! ### DEC.ATEND -/

/-- Settles O33: DEC.ATEND answers when READY, and is out of phase otherwise. -/
theorem decAtendAnswersCodeIsZero : Obligations.DecAtendAnswersCodeIsZero := by
  refine fun s => ⟨fun hr => ?_, exec_of_not_accepted (i := .decAtend) rfl⟩
  have hz : s.dec.code.toNat = 0 ↔ s.dec.code = 0#32 := (BitVec.toNat_eq (x := s.dec.code) (y := 0#32)).symm
  rw [exec_decAtend hr, atEnd]
  by_cases h : s.dec.code = 0#32
  · rw [decide_eq_true h, if_pos (hz.2 h)]
    rfl
  · rw [decide_eq_false h, if_neg (mt hz.1 h)]
    rfl

/-! ### The bytes the source answers with -/

/-- The state with DEC at `d`, and `n` bytes taken, after which the source answers with `rest`. -/
def afterReads (s : State) (d : DecUnit) (n : Nat) (rest : List SourceAnswer) : State :=
  { s with dec := d, source := { taken := s.source.taken + n, answers := rest } }

theorem sourceRead_byte {s : State} {v : Byte} {rest : List SourceAnswer} (h : s.source.answers = .byte v :: rest) :
    sourceRead s = .go v (afterReads s s.dec 1 rest) := by
  rw [sourceRead, takeSourceAnswer, h]
  rfl

/-! ### One decoded bit -/

theorem decNormalize_of_no_shift {s : State} (h : ¬ NeedsShift s.dec.range) : decNormalize s = .go () s := if_neg h

theorem shiftLeft_eight (r : Word) : r <<< 8 = BitVec.ofNat 32 (r.toNat * 2 ^ 8) := by
  apply BitVec.eq_of_toNat_eq
  rw [BitVec.toNat_shiftLeft, BitVec.toNat_ofNat, Nat.shiftLeft_eq]

theorem foldByte_eq (v : Byte) (s : State) :
    foldByte v s = s.setDec { s.dec with code := BitVec.ofNat 32 (s.dec.code.toNat % 2 ^ 24 * 2 ^ 8 + v.toNat) } := by
  rw [foldByte, foldedCode_eq]

theorem decNormalize_of_shift {s : State} (h : NeedsShift s.dec.range) :
    decNormalize s = andThen (sourceRead (s.setDec { s.dec with range := s.dec.range <<< 8 })) fun v t => .go () (foldByte v t) :=
  if_pos h

theorem decNormalize_of_byte {s : State} {v : Byte} {rest : List SourceAnswer} (hn : NeedsShift s.dec.range)
    (h : s.source.answers = .byte v :: rest) : decNormalize s = .go () (afterReads s (readIn s.dec v) 1 rest) := by
  have hread := sourceRead_byte (s := s.setDec { s.dec with range := s.dec.range <<< 8 }) h
  rw [decNormalize_of_shift hn, hread, andThen_go, foldByte_eq, readIn, ← shiftLeft_eight]
  rfl

/-- The P of a decoded bit's response, on naturals (R76). -/
def CodedBit.decodedPNat (c : CodedBit) (bit : Bool) : Nat :=
  match c with
  | .direct _ => 0
  | .adaptive _ p => newCell bit p.toNat

/-- The response word of a decoded bit, on naturals (R76). -/
theorem responseWord_decodedP (c : CodedBit) (bit : Bool) :
    responseWord .ok bit (c.decodedP bit) = response 0 bit.toNat (c.decodedPNat bit) := by
  have hp : (c.decodedP bit).toNat = c.decodedPNat bit := by
    cases c with
    | direct b => rfl
    | adaptive b p => exact toNat_cellUpdate bit p
  rw [responseWord, hp, response]
  rfl

theorem respond_ok_decodedP (s : State) (c : CodedBit) (bit : Bool) :
    s.respond .ok bit (c.decodedP bit) =
      { s with responses := s.responses ++ [response 0 bit.toNat (c.decodedPNat bit)] } := by
  rw [← responseWord_decodedP]
  rfl

/-- R182, R183: a bit decoded without a read. -/
theorem exec_decCommand_of_no_shift {c : CodedBit} {s : State} (hl : c.Legal) (hr : s.dec.phase = .ready)
    (hn : ¬ NeedsShift (c.decoded s.dec).2.range) :
    exec c.decCommand s = .next
      { s with
        dec := (c.decoded s.dec).2
        responses := s.responses ++ [response 0 (c.decoded s.dec).1.toNat (c.decodedPNat (c.decoded s.dec).1)] } := by
  rw [exec_decCommand hl hr, CodedBit.decWork, decNormalize_of_no_shift (s := s.setDec _) hn, andThen_go, commandEnd_go,
    respond_ok_decodedP]
  rfl

/-- R182, R183: a bit decoded with the byte its normalization reads. -/
theorem exec_decCommand_of_byte {c : CodedBit} {s : State} (hl : c.Legal) (hr : s.dec.phase = .ready) (v : Byte)
    (rest : List SourceAnswer) (hn : NeedsShift (c.decoded s.dec).2.range) (h : s.source.answers = .byte v :: rest) :
    exec c.decCommand s = .next
      { s with
        dec := readIn (c.decoded s.dec).2 v
        source := { taken := s.source.taken + 1, answers := rest }
        responses := s.responses ++ [response 0 (c.decoded s.dec).1.toNat (c.decodedPNat (c.decoded s.dec).1)] } := by
  rw [exec_decCommand hl hr, CodedBit.decWork, decNormalize_of_byte (s := s.setDec _) hn h, andThen_go, commandEnd_go,
    respond_ok_decodedP]
  rfl

/-- Settles O31: DEC.DIRECT is the decoder's command for a direct bit. -/
theorem decDirectDecodesTheBit : Obligations.DecDirectDecodesTheBit := fun _ hr =>
  ⟨exec_decCommand_of_no_shift (c := .direct false) trivial hr, exec_decCommand_of_byte (c := .direct false) trivial hr⟩

/-- Settles O32: DEC.BIT is the decoder's command for an adaptive bit. -/
theorem decBitDecodesTheBit : Obligations.DecBitDecodesTheBit := fun p _ hp hr =>
  ⟨exec_decCommand_of_no_shift (c := .adaptive false p) hp hr, exec_decCommand_of_byte (c := .adaptive false p) hp hr⟩

/-! ### The header -/

theorem foldl_bytes_eq (bs : List Byte) (n : Nat) :
    bs.foldl (fun n b => n * 256 + b.toNat) n = n * 256 ^ bs.length + bigEndianValue bs := by
  induction bs generalizing n with
  | nil => exact (Nat.mul_one n).symm
  | cons b bs ih =>
    rw [bigEndianValue, List.foldl_cons, List.foldl_cons, ih, ih, Nat.zero_mul, Nat.zero_add, List.length_cons, Nat.pow_succ']
    ring

theorem bigEndianValue_append (as bs : List Byte) :
    bigEndianValue (as ++ bs) = bigEndianValue as * 256 ^ bs.length + bigEndianValue bs := by
  rw [bigEndianValue, List.foldl_append, foldl_bytes_eq]
  rfl

theorem bigEndianValue_cons (b : Byte) (bs : List Byte) :
    bigEndianValue (b :: bs) = b.toNat * 256 ^ bs.length + bigEndianValue bs := by
  rw [bigEndianValue, List.foldl_cons, foldl_bytes_eq, Nat.zero_mul, Nat.zero_add]

theorem bigEndianValue_lt (bs : List Byte) : bigEndianValue bs < 256 ^ bs.length := by
  induction bs with
  | nil => exact Nat.one_pos
  | cons b bs ih =>
    have hb : b.toNat * 256 ^ bs.length ≤ 255 * 256 ^ bs.length := Nat.mul_le_mul_right _ (Nat.le_of_lt_succ b.isLt)
    rw [bigEndianValue_cons, List.length_cons]
    omega

/-- DEC.code's digits, then one more (R58, R180), mod 2^32. -/
theorem ofNat_digit (n : Nat) (v : Byte) :
    BitVec.ofNat 32 ((BitVec.ofNat 32 n).toNat % 2 ^ 24 * 2 ^ 8 + v.toNat) = BitVec.ofNat 32 (n * 256 + v.toNat) := by
  apply BitVec.eq_of_toNat_eq
  simp only [BitVec.toNat_ofNat]
  omega

theorem readCodeBytes_of_bytes (bs : List Byte) {s : State} {rest : List SourceAnswer} {n : Nat}
    (hc : s.dec.code = BitVec.ofNat 32 n) (h : s.source.answers = bs.map .byte ++ rest) :
    readCodeBytes bs.length s = .go () (afterReads s
      { s.dec with code := BitVec.ofNat 32 (n * 256 ^ bs.length + bigEndianValue bs) } bs.length rest) := by
  induction bs generalizing s n with
  | nil =>
    have hn : n * 256 ^ 0 + bigEndianValue [] = n := Nat.mul_one n
    rw [List.map_nil, List.nil_append] at h
    rw [List.length_nil, hn, ← hc, ← h]
    rfl
  | cons b bs ih =>
    have hread := sourceRead_byte (rest := bs.map SourceAnswer.byte ++ rest) h
    have hcode : (foldByte b (afterReads s s.dec 1 (bs.map .byte ++ rest))).dec.code = BitVec.ofNat 32 (n * 256 + b.toNat) := by
      rw [foldByte_eq, ← ofNat_digit, ← hc]
      rfl
    have hn : (n * 256 + b.toNat) * 256 ^ bs.length + bigEndianValue bs =
        n * 256 ^ (b :: bs).length + bigEndianValue (b :: bs) := by
      rw [bigEndianValue_cons, List.length_cons, Nat.pow_succ']
      ring
    rw [List.length_cons, readCodeBytes, hread, andThen_go, ih hcode rfl, hn]
    simp only [afterReads, foldByte_eq, setDec_dec, setDec_source, Nat.add_assoc, Nat.add_comm 1]
    rfl

theorem readLeadingZero_of_zero {s : State} {rest : List SourceAnswer} (h : s.source.answers = .byte 0x00#8 :: rest) :
    readLeadingZero s = .go () (afterReads s s.dec 1 rest) := by
  rw [readLeadingZero, sourceRead_byte h]
  rfl

theorem checkCode_of_lt {s : State} (h : s.dec.code < s.dec.range) : checkCode s = .go () s :=
  if_neg (BitVec.not_le.2 h)

/-- Settles O29: the header's bytes are read, and the check after them finds nothing. -/
theorem decInitReadsTheHeader : Obligations.DecInitReadsTheHeader := by
  intro s bs rest hlen hne h
  have hlt : (BitVec.ofNat 32 (bigEndianValue bs)) < 0xFFFFFFFF#32 := by
    have hv := bigEndianValue_lt bs
    rw [hlen] at hv
    rw [BitVec.lt_def, BitVec.toNat_ofNat, BitVec.toNat_ofNat]
    omega
  have hlead := readLeadingZero_of_zero (s := decSessionStart s) (rest := bs.map SourceAnswer.byte ++ rest) h
  have hcode := readCodeBytes_of_bytes bs (s := afterReads (decSessionStart s) (decSessionStart s).dec 1 (bs.map .byte ++ rest))
    (n := 0) rfl rfl
  rw [Nat.zero_mul, Nat.zero_add, hlen] at hcode
  rw [exec_decInit, decInitWork, hlead, andThen_go, hcode, andThen_go, checkCode_of_lt hlt]
  rfl

end Sys2Proof.Machine
end

section
/-! PROOFS. A whole encoder session on ENC's registers alone (70_reset_and_hazards.md R276): when every response is OK, its bytes,
its responses and ENC after each bit are functions of the bits and of ENC at the start. -/

namespace Sys2Proof.Machine

/-- ENC after one coded bit (R137, R138). -/
def CodedBit.after (c : CodedBit) (e : EncUnit) : EncUnit := normalized (c.narrow e)

/-- ENC after the coded bits `cs`. -/
def encAfter (cs : List CodedBit) (e : EncUnit) : EncUnit := cs.foldl (fun e c => c.after e) e

/-- The bytes a session still writes from ENC at `e` on: those of each bit, then those of ENC.FLUSH. -/
def sessionBytes : List CodedBit → EncUnit → List Byte
  | [], e => shiftsBytes 5 e
  | c :: cs, e => normalizeBytes (c.narrow e) ++ sessionBytes cs (c.after e)

/-- A coded bit answered OK: what it leaves of ENC, the sink's stream and the responses. -/
theorem CommandRun.encCommand_ok {c : CodedBit} {s t : State} (h : CommandRun s c.encCommand t) (hok : AllOk s t) :
    c.Legal ∧ t.enc = c.after s.enc ∧ t.sink.written = s.sink.written ++ normalizeBytes (c.narrow s.enc) ∧
    t.responses = s.responses ++ [response 0 0 c.responseP] := by
  obtain ⟨hw, ha⟩ := h.accepted_of_allOk hok
  have hl := legal_of_wf_encCommand hw
  have hwritten := (h.emits_encCommand hok).written
  have hr := encReady_of_acceptedIn (isEncCommand_encCommand c) (by cases c <;> nofun) ha
  obtain rfl := h.unique (.encBit c hl hr)
  have hresp := responses_of_encInto (encWork_encInto c) s
  obtain ⟨a, u, hx⟩ := go_of_allOk hresp hok
  obtain rfl := encWork_go_value hx
  rw [hx] at hwritten hresp ⊢
  refine ⟨hl, (encWork_go hx).2, hwritten, ?_⟩
  rw [commandEnd_go, respond_responses, responseWord_newP]
  exact congrArg (· ++ _) hresp

/-- An ENC.FLUSH answered OK. -/
theorem CommandRun.encFlush_ok {s t : State} (h : CommandRun s .encFlush t) (hok : AllOk s t) :
    t.sink.written = s.sink.written ++ shiftsBytes 5 s.enc ∧ t.responses = s.responses ++ [0x0000#16] := by
  refine ⟨(h.emits_encFlush hok).1.written, ?_⟩
  obtain rfl := h.unique (.encFlush (h.accepted_of_allOk hok).2)
  have hresp := responses_of_encInto flushWork_encInto s
  obtain ⟨a, u, hx⟩ := go_of_allOk hresp hok
  obtain rfl := (flushWork_go hx).1
  rw [hx] at hresp ⊢
  exact congrArg (· ++ _) hresp

/-- What a session answered OK leaves behind. -/
structure SessionRun (cs : List CodedBit) (s : State) : Prop where
  legal : ∀ c ∈ cs, c.Legal
  written : (encSession cs s).sink.written = s.sink.written ++ sessionBytes cs s.enc
  responses : (encSession cs s).responses = s.responses ++ (cs.map (fun c => response 0 0 c.responseP) ++ [0x0000#16])
  enc_prefix : ∀ k, (encPrefix cs k s).enc = encAfter (cs.take k) s.enc

theorem sessionRun_of_allOk {cs : List CodedBit} {s : State} (hok : AllOk s (encSession cs s)) : SessionRun cs s := by
  induction cs generalizing s with
  | nil =>
    obtain ⟨t, h⟩ := exists_commandRun .encFlush s
    have hrun : encSession [] s = t := runCommands_cons h []
    rw [hrun] at hok
    obtain ⟨hwritten, hresp⟩ := h.encFlush_ok hok
    exact ⟨nofun, hrun ▸ hwritten, hrun ▸ hresp, fun k => by rw [encPrefix, List.take_nil]; rfl⟩
  | cons c cs ih =>
    obtain ⟨t, h⟩ := exists_commandRun c.encCommand s
    have hrun : encSession (c :: cs) s = encSession cs t := runCommands_cons h _
    rw [hrun] at hok
    obtain ⟨hfirst, hrest⟩ := (allOk_trans h.responses_prefix (runCommands_responses_prefix _ t)).1 hok
    obtain ⟨hl, he, hwritten, hresp⟩ := h.encCommand_ok hfirst
    have tail := ih hrest
    refine ⟨List.forall_mem_cons.2 ⟨hl, tail.legal⟩, ?_, ?_, fun k => ?_⟩
    · rw [hrun, tail.written, hwritten, he, sessionBytes, List.append_assoc]
    · rw [hrun, tail.responses, hresp, List.append_assoc]
      rfl
    · cases k with
      | zero => rfl
      | succ k =>
        have hp : encPrefix (c :: cs) (k + 1) s = encPrefix cs k t := runCommands_cons h _
        rw [hp, tail.enc_prefix, he]
        rfl

end Sys2Proof.Machine
end

section
/-! PROOFS. What DEC.code is while DEC follows ENC (42_decoder.md R185): DEC has read as many bytes of the stream as ENC has
written or holds back, and code is the distance from the number ENC holds back to the number those bytes stand for. -/

namespace Sys2Proof.Machine

/-! ### The number held back -/

theorem bigEndianValue_bigEndian (n v : Nat) : bigEndianValue (bigEndian n v) = v % 256 ^ n := by
  induction n with
  | zero => exact (Nat.mod_one v).symm
  | succ n ih =>
    rw [bigEndian, bigEndianValue_cons, bigEndian_length, ih, Nat.pow_succ, Nat.mod_mul, BitVec.toNat_ofNat, Nat.add_comm,
      Nat.mul_comm]

/-- Claim J of R141: with a cache byte 0xFF there is no carry, so the number held back has no digit more than its bytes. -/
theorem heldNumber_lt {e : EncUnit} (h : EncBounds e) : heldNumber e < 256 ^ (e.cacheSize + 4) := by
  obtain ⟨h33, hc, hJ⟩ := h
  obtain ⟨n, hn⟩ := Nat.exists_eq_add_of_le' hc
  have hpos : 0 < 256 ^ n := Nat.pow_pos (by decide)
  have hpow : 256 ^ (e.cacheSize + 4) = 256 * 256 ^ n * 2 ^ 32 := by rw [hn]; ring
  rw [heldNumber_eq hn, hpow]
  by_cases hff : e.cache = 0xFF#8
  · have hlow := hJ hff
    have hcache : e.cache.toNat = 0xFF := congrArg BitVec.toNat hff
    rw [hcache]
    omega
  · have hcache : e.cache.toNat ≤ 0xFE := by
      have hlt := e.cache.isLt
      have hne : e.cache.toNat ≠ 0xFF := fun h => hff (BitVec.eq_of_toNat_eq h)
      omega
    have hmul := Nat.mul_le_mul_right (256 ^ n) hcache
    omega

/-- What the bit adds to low (R137, R138). -/
def CodedBit.offset (c : CodedBit) (r : Nat) : Nat := if c.bit then c.zeroWidth r else 0

theorem CodedBit.offset_add_width_le (c : CodedBit) (r : Nat) : c.offset r + c.width c.bit r ≤ r := by
  have hsum := c.zeroWidth_add_oneWidth_le r
  unfold CodedBit.offset CodedBit.width
  split <;> omega

theorem heldNumber_narrow {e : EncUnit} (h : EncBounds e) (c : CodedBit) :
    heldNumber (c.narrow e) = heldNumber e + c.offset e.range.toNat := by
  have h33 := h.1
  have hle := c.offset_add_width_le e.range.toNat
  have hlow : (c.narrow e).low.toNat = e.low.toNat + c.offset e.range.toNat := by
    have hsplit : (if c.bit then e.low.toNat + c.zeroWidth e.range.toNat else e.low.toNat) =
        e.low.toNat + c.offset e.range.toNat := by
      unfold CodedBit.offset
      split <;> rfl
    rw [CodedBit.narrow, BitVec.toNat_ofNat, hsplit]
    omega
  rw [heldNumber, hlow, ← Nat.add_assoc]
  rfl

/-! ### The bytes DEC has read -/

/-- `seen` are the bytes that come from ENC at `e` on, as far as DEC has read them; `code` is how far the number they stand for lies
above the one ENC holds back, and it lies in ENC's interval (R36). -/
structure Codes (e : EncUnit) (code : Nat) (seen : List Byte) : Prop where
  length_eq : seen.length = e.cacheSize + 4
  value_eq : bigEndianValue seen = heldNumber e + code
  code_lt : code < e.range.toNat

/-- At the end ENC.FLUSH writes the number held back itself. -/
theorem codes_flush {e : EncUnit} (h : EncBounds e) (hr : 0 < e.range.toNat) : Codes e 0 (shiftsBytes 5 e) := by
  have hfive := shiftsBytes_five h.2.1
  refine ⟨?_, ?_, hr⟩
  · rw [hfive, bigEndian_length]
  · rw [hfive, bigEndianValue_bigEndian, Nat.mod_eq_of_lt (heldNumber_lt h), Nat.add_zero]

/-- A coded bit adds its offset to the number held back, so that `code` was larger by the offset before it. -/
theorem Codes.of_narrow {c : CodedBit} {e : EncUnit} {code : Nat} {seen : List Byte} (h : Codes (c.narrow e) code seen)
    (he : EncBounds e) : Codes e (c.offset e.range.toNat + code) seen := by
  have hle := c.offset_add_width_le e.range.toNat
  have hlt := h.code_lt
  rw [toNat_narrow_range] at hlt
  refine ⟨h.length_eq, ?_, by omega⟩
  rw [h.value_eq, heldNumber_narrow he, Nat.add_assoc]

/-- R130: one ShiftLow appends a zero byte to the number held back; what comes after is counted from there. -/
theorem bigEndianValue_shiftBytes_append {e : EncUnit} (h : 1 ≤ e.cacheSize) (hlt : heldNumber e < 256 ^ (e.cacheSize + 4))
    (hlt' : heldNumber (shifted e) < 256 ^ ((shifted e).cacheSize + 4)) {seen : List Byte}
    (hlen : seen.length = (shifted e).cacheSize + 4) :
    bigEndianValue (shiftBytes e ++ seen) + heldNumber (shifted e) = heldNumber e * 256 + bigEndianValue seen := by
  have hmul : heldNumber e * 256 < 256 ^ (e.cacheSize + 5) := by
    rw [Nat.pow_succ]
    exact Nat.mul_lt_mul_of_pos_right hlt (by decide)
  have hdigits := congrArg bigEndianValue (shiftBytes_append_held h)
  rw [bigEndianValue_append, bigEndian_length, bigEndianValue_bigEndian, bigEndianValue_bigEndian, Nat.mod_eq_of_lt hlt',
    Nat.mod_eq_of_lt hmul] at hdigits
  rw [bigEndianValue_append, hlen, ← hdigits]
  ring

/-- R130, R180: DEC has read one byte less before the ShiftLow, and the byte it reads is the last digit of the new `code`. -/
theorem Codes.of_shifted {e : EncUnit} {code' : Nat} {seen' : List Byte} (h : Codes (shifted (rangeShifted e)) code' seen')
    (he : EncBounds e) (hn : NeedsShift e.range) :
    ∃ code seen v, shiftBytes e ++ seen' = seen ++ [v] ∧ Codes e code seen ∧ code' = code * 256 + v.toNat := by
  obtain ⟨hlen', hvalue', hlt⟩ := h
  rw [shifted_range, toNat_rangeShifted hn] at hlt
  have hcount : (shiftBytes e).length + (shifted (rangeShifted e)).cacheSize = e.cacheSize + 1 :=
    shiftBytes_length_add (e := rangeShifted e) he.2.1
  have hheld := heldNumber_lt he
  have hheld' := heldNumber_lt (encBounds_shifted he hn)
  have hvalue : bigEndianValue (shiftBytes e ++ seen') + heldNumber (shifted (rangeShifted e)) =
      heldNumber e * 256 + bigEndianValue seen' :=
    bigEndianValue_shiftBytes_append (e := rangeShifted e) he.2.1 hheld hheld' hlen'
  have hlen : (shiftBytes e ++ seen').length = e.cacheSize + 4 + 1 := by
    rw [List.length_append]
    omega
  have hlast := List.dropLast_append_getLast (List.ne_nil_of_length_eq_add_one hlen)
  obtain ⟨seen, v, hsplit⟩ : ∃ seen v, shiftBytes e ++ seen' = seen ++ [v] := ⟨_, _, hlast.symm⟩
  have hseen : seen.length = e.cacheSize + 4 := by
    rw [hsplit, List.length_append] at hlen
    exact Nat.succ.inj hlen
  have hdigit : bigEndianValue (seen ++ [v]) = bigEndianValue seen * 256 + v.toNat := by
    rw [bigEndianValue_append, bigEndianValue_cons, List.length_singleton, Nat.pow_one, List.length_nil, Nat.pow_zero,
      Nat.mul_one]
    rfl
  rw [hsplit, hdigit] at hvalue
  have hv := v.isLt
  exact ⟨bigEndianValue seen - heldNumber e, seen, v, hsplit, ⟨hseen, by omega, by omega⟩, by omega⟩

end Sys2Proof.Machine
end

section
/-! PROOFS. The mirror property (42_decoder.md R185): DEC decodes the bit ENC coded and stays in step with it, command by command,
and a session is its commands one after another: O43. -/

namespace Sys2Proof.Machine

/-! ### DEC in step with ENC -/

/-- READY DEC with ENC's range, and its code `code`. -/
def decInStep (e : EncUnit) (code : Nat) : DecUnit := { range := e.range, code := BitVec.ofNat 32 code, phase := .ready }

theorem toNat_decInStep_code {e : EncUnit} {code : Nat} (h : code < e.range.toNat) : (decInStep e code).code.toNat = code :=
  (BitVec.toNat_ofNat ..).trans (Nat.mod_eq_of_lt (h.trans e.range.isLt))

/-- A code in the 0 outcome's part decodes 0: for DEC.DIRECT the difference borrows (R182), for DEC.BIT it is below Bound (R183). -/
theorem decoded_of_lt_zeroWidth {c : CodedBit} {d : DecUnit} (h : d.code.toNat < c.zeroWidth d.range.toNat) :
    c.decoded d = (false, { d with range := BitVec.ofNat 32 (c.zeroWidth d.range.toNat) }) := by
  cases c with
  | direct b =>
    have hhalf : d.code.toNat < d.range.toNat / 2 := h
    have hr := d.range.isLt
    exact if_pos (by omega)
  | adaptive b p => exact if_pos h

/-- A code in the 1 outcome's part decodes 1: for DEC.DIRECT the difference does not borrow, and stays below 2^31. -/
theorem decoded_of_zeroWidth_le {c : CodedBit} {d : DecUnit} (h : c.zeroWidth d.range.toNat ≤ d.code.toNat)
    (hlt : d.code.toNat < c.zeroWidth d.range.toNat + c.oneWidth d.range.toNat) :
    c.decoded d = (true,
      { d with
        range := BitVec.ofNat 32 (c.oneWidth d.range.toNat)
        code := BitVec.ofNat 32 (d.code.toNat - c.zeroWidth d.range.toNat) }) := by
  cases c with
  | direct b =>
    have hge : d.range.toNat / 2 ≤ d.code.toNat := h
    have hup : d.code.toNat < d.range.toNat / 2 + d.range.toNat / 2 := hlt
    have hr := d.range.isLt
    have ht : (d.code.toNat + 2 ^ 32 - d.range.toNat / 2) % 2 ^ 32 = d.code.toNat - d.range.toNat / 2 := by omega
    rw [CodedBit.decoded, directDecoded, ht]
    exact if_neg (by omega)
  | adaptive b p => exact if_neg (Nat.not_lt.2 h)

/-- R182, R183: DEC finds the bit ENC coded, since `code` lies in that bit's part of the range. -/
theorem decoded_decInStep {c : CodedBit} {e : EncUnit} {code : Nat} (h : code < (c.narrow e).range.toNat) :
    c.decoded (decInStep e (c.offset e.range.toNat + code)) = (c.bit, decInStep (c.narrow e) code) := by
  have hle := c.offset_add_width_le e.range.toNat
  rw [toNat_narrow_range] at h
  have hcode := toNat_decInStep_code (e := e) (code := c.offset e.range.toNat + code) (by omega)
  cases hbit : c.bit with
  | false =>
    have hoff : c.offset e.range.toNat = 0 := by rw [CodedBit.offset, hbit]; rfl
    have hwidth : c.width c.bit e.range.toNat = c.zeroWidth e.range.toNat := by rw [hbit]; rfl
    rw [hoff, Nat.zero_add] at hcode ⊢
    rw [decoded_of_lt_zeroWidth (hcode.trans_lt (h.trans_eq hwidth)), decInStep, decInStep, CodedBit.narrow, hbit]
    rfl
  | true =>
    have hoff : c.offset e.range.toNat = c.zeroWidth e.range.toNat := by rw [CodedBit.offset, hbit]; rfl
    have hwidth : c.width c.bit e.range.toNat = c.oneWidth e.range.toNat := by rw [hbit]; rfl
    rw [hoff] at hcode ⊢
    rw [hwidth] at h
    rw [decoded_of_zeroWidth_le (hcode.symm ▸ Nat.le_add_right ..) (hcode.symm ▸ Nat.add_lt_add_left h _), hcode, decInStep,
      decInStep, CodedBit.narrow, hbit, Nat.add_sub_cancel_left]
    rfl

theorem readIn_decInStep (e : EncUnit) (code : Nat) (v : Byte) :
    readIn (decInStep e code) v = decInStep (shifted (rangeShifted e)) (code * 256 + v.toNat) := by
  rw [readIn, decInStep, ofNat_digit]
  rfl

theorem decodedPNat_bit (c : CodedBit) : c.decodedPNat c.bit = c.responseP := by cases c <;> rfl

theorem after_of_no_shift {c : CodedBit} {e : EncUnit} (h : ¬ NeedsShift (c.narrow e).range) : c.after e = c.narrow e := if_neg h

theorem after_of_shift {c : CodedBit} {e : EncUnit} (h : NeedsShift (c.narrow e).range) :
    c.after e = shifted (rangeShifted (c.narrow e)) := if_pos h

/-! ### The decoder's session -/

/-- What the decoder commands of `cs` do from `d` on when they mirror ENC at `e`: R185 (a) to (d). -/
structure Mirrors (cs : List CodedBit) (e : EncUnit) (todo : List Byte) (rest : List SourceAnswer) (d : State) : Prop where
  responses : (runCommands (cs.map CodedBit.decCommand) d).responses =
    d.responses ++ cs.map (fun c => response 0 c.bit.toNat c.responseP)
  source : (runCommands (cs.map CodedBit.decCommand) d).source = { taken := d.source.taken + todo.length, answers := rest }
  range_prefix : ∀ k, (runCommands ((cs.take k).map CodedBit.decCommand) d).dec.range = (encAfter (cs.take k) e).range

/-- DEC in step with ENC at `e`, with the bytes `todo` before it, mirrors the bits `cs`. -/
def FollowedFrom (cs : List CodedBit) (e : EncUnit) (code : Nat) (todo : List Byte) : Prop :=
  ∀ (d : State) (rest : List SourceAnswer), d.dec = decInStep e code → d.source.answers = todo.map .byte ++ rest →
    Mirrors cs e todo rest d

theorem followedFrom_nil (e : EncUnit) (code : Nat) : FollowedFrom [] e code [] := by
  intro d rest hd hs
  refine ⟨(List.append_nil _).symm, ?_, fun k => ?_⟩
  · have hrest : d.source.answers = rest := hs
    rw [← hrest]
    rfl
  · rw [List.take_nil]
    exact congrArg DecUnit.range hd

/-- `d` once a command has left DEC at `u`, taken `n` bytes before the answers `as`, and been answered with `r`. -/
def afterAnswer (d : State) (u : DecUnit) (n : Nat) (as : List SourceAnswer) (r : ResponseWord) : State :=
  { afterReads d u n as with responses := d.responses ++ [r] }

/-- A command that brings DEC in step with ENC at `e`, and then the commands of `cs`. -/
theorem FollowedFrom.run_cons {i : Instr} {cs : List CodedBit} {e : EncUnit} {code n : Nat} {todo : List Byte}
    {rest : List SourceAnswer} {r : ResponseWord} {d : State} (h : FollowedFrom cs e code todo)
    (hx : exec i d = .next (afterAnswer d (decInStep e code) n (todo.map .byte ++ rest) r)) :
    (runCommands (i :: cs.map CodedBit.decCommand) d).responses =
      d.responses ++ r :: cs.map (fun c => response 0 c.bit.toNat c.responseP) ∧
    (runCommands (i :: cs.map CodedBit.decCommand) d).source =
      { taken := d.source.taken + (n + todo.length), answers := rest } ∧
    ∀ k, (runCommands (i :: (cs.take k).map CodedBit.decCommand) d).dec.range = (encAfter (cs.take k) e).range := by
  have hrun := exec_eq_next_iff.1 hx
  obtain ⟨hresp, hsource, hrange⟩ := h (afterAnswer d (decInStep e code) n (todo.map .byte ++ rest) r) rest rfl rfl
  simp only [runCommands_cons hrun]
  refine ⟨hresp.trans (List.append_assoc ..), ?_, hrange⟩
  rw [hsource, ← Nat.add_assoc]
  rfl

/-- A bit mirrored by its command, which takes the bytes `bs`, and then the bits of `cs`. -/
theorem FollowedFrom.mirrors_cons {c : CodedBit} {cs : List CodedBit} {e : EncUnit} {code code' : Nat} {bs todo : List Byte}
    {rest : List SourceAnswer} {d : State} (h : FollowedFrom cs (c.after e) code' todo) (hd : d.dec = decInStep e code)
    (hx : exec c.decCommand d = .next (afterAnswer d (decInStep (c.after e) code') bs.length (todo.map .byte ++ rest)
      (response 0 c.bit.toNat c.responseP))) : Mirrors (c :: cs) e (bs ++ todo) rest d := by
  obtain ⟨hresp, hsource, hrange⟩ := h.run_cons hx
  refine ⟨hresp, ?_, fun k => ?_⟩
  · rw [List.length_append]
    exact hsource
  · cases k with
    | zero => exact congrArg DecUnit.range hd
    | succ k => exact hrange k

theorem FollowedFrom.cons_of_no_shift {c : CodedBit} {cs : List CodedBit} {e : EncUnit} {code : Nat} {todo : List Byte}
    (hl : c.Legal) (hlt : code < (c.narrow e).range.toNat) (hn : ¬ NeedsShift (c.narrow e).range)
    (h : FollowedFrom cs (c.after e) code todo) : FollowedFrom (c :: cs) e (c.offset e.range.toNat + code) todo := by
  intro d rest hd hs
  have hdec : c.decoded d.dec = (c.bit, decInStep (c.narrow e) code) := by rw [hd, decoded_decInStep hlt]
  have hx := exec_decCommand_of_no_shift (s := d) hl (by rw [hd]; rfl) (by rw [hdec]; exact hn)
  rw [hdec, decodedPNat_bit, ← after_of_no_shift hn] at hx
  refine h.mirrors_cons (bs := []) hd (hx.trans ?_)
  rw [← hs]
  rfl

theorem FollowedFrom.cons_of_shift {c : CodedBit} {cs : List CodedBit} {e : EncUnit} {code : Nat} {v : Byte} {todo : List Byte}
    (hl : c.Legal) (hlt : code < (c.narrow e).range.toNat) (hn : NeedsShift (c.narrow e).range)
    (h : FollowedFrom cs (c.after e) (code * 256 + v.toNat) todo) :
    FollowedFrom (c :: cs) e (c.offset e.range.toNat + code) (v :: todo) := by
  intro d rest hd hs
  have hdec : c.decoded d.dec = (c.bit, decInStep (c.narrow e) code) := by rw [hd, decoded_decInStep hlt]
  have hx := exec_decCommand_of_byte (s := d) hl (by rw [hd]; rfl) v (todo.map SourceAnswer.byte ++ rest)
    (by rw [hdec]; exact hn) hs
  rw [hdec, decodedPNat_bit, readIn_decInStep, ← after_of_shift hn] at hx
  exact h.mirrors_cons (bs := [v]) hd hx

/-! ### The range allows every bit -/

/-- R185: at a range of 2^11 or more Bound leaves both outcomes a part; a direct bit needs no more than 2. -/
theorem CodedBit.width_pos {c : CodedBit} {r : Nat} (hl : c.Legal) (h2 : 2 ≤ r) (hwide : ∀ b p, c = .adaptive b p → 2 ^ 11 ≤ r)
    (b : Bool) : 0 < c.width b r := by
  have hz : 0 < c.zeroWidth r ∧ 0 < c.oneWidth r := by
    cases c with
    | direct b => exact ⟨Nat.div_pos h2 (by decide), Nat.div_pos h2 (by decide)⟩
    | adaptive b p =>
      have hp : 1 ≤ p.toNat := Nat.pos_of_ne_zero fun h => hl (BitVec.eq_of_toNat_eq h)
      obtain ⟨hpos, hlt⟩ := div_mul_cell_pos_lt hp p.isLt (hwide b p rfl)
      exact ⟨hpos, Nat.sub_pos_of_lt hlt⟩
  unfold CodedBit.width
  split
  · exact hz.2
  · exact hz.1

theorem two_le_normalized_range {e : EncUnit} (h : 0 < e.range.toNat) : 2 ≤ (normalized e).range.toNat := by
  unfold normalized
  split
  · next hn =>
    rw [shifted_range, toNat_rangeShifted hn]
    omega
  · omega

/-- Every ENC.BIT of `cs` finds a range of 2^11 or more. -/
def WideForCells (cs : List CodedBit) (e : EncUnit) : Prop :=
  ∀ k b p, cs[k]? = some (.adaptive b p) → 2 ^ 11 ≤ (encAfter (cs.take k) e).range.toNat

theorem wideForCells_cons {c : CodedBit} {cs : List CodedBit} {e : EncUnit} (h : WideForCells (c :: cs) e) :
    (∀ b p, c = .adaptive b p → 2 ^ 11 ≤ e.range.toNat) ∧ WideForCells cs (c.after e) :=
  ⟨fun b p hc => h 0 b p (congrArg some hc), fun k b p hk => h (k + 1) b p hk⟩

/-! ### The whole session -/

/-- R185: the session's bytes are those that bring DEC in step with ENC, and then those its commands read. -/
theorem exists_codes_followedFrom {cs : List CodedBit} {e : EncUnit} (hb : EncBounds e) (h2 : 2 ≤ e.range.toNat)
    (hl : ∀ c ∈ cs, c.Legal) (hw : WideForCells cs e) :
    ∃ code seen todo, sessionBytes cs e = seen ++ todo ∧ Codes e code seen ∧ FollowedFrom cs e code todo := by
  induction cs generalizing e with
  | nil => exact ⟨0, _, [], (List.append_nil _).symm, codes_flush hb (by omega), followedFrom_nil e 0⟩
  | cons c cs ih =>
    obtain ⟨hlc, hls⟩ := List.forall_mem_cons.1 hl
    obtain ⟨hwc, hws⟩ := wideForCells_cons hw
    have hpos : 0 < (c.narrow e).range.toNat := by
      rw [toNat_narrow_range]
      exact CodedBit.width_pos hlc h2 hwc c.bit
    have hbn := encBounds_narrow hb c
    obtain ⟨code', seen', todo, hbytes, hcodes, hfollow⟩ :=
      ih (e := c.after e) (encBounds_normalized hbn) (two_le_normalized_range hpos) hls hws
    rw [sessionBytes]
    by_cases hn : NeedsShift (c.narrow e).range
    · rw [after_of_shift hn] at hcodes
      obtain ⟨code, seen, v, hsplit, hread, rfl⟩ := hcodes.of_shifted hbn hn
      refine ⟨_, seen, v :: todo, ?_, hread.of_narrow hb, hfollow.cons_of_shift hlc hread.code_lt hn⟩
      rw [normalizeBytes, if_pos hn, hbytes, ← List.append_assoc, hsplit, List.append_assoc]
      rfl
    · rw [after_of_no_shift hn] at hcodes
      refine ⟨_, seen', todo, ?_, hcodes.of_narrow hb, hfollow.cons_of_no_shift hlc hcodes.code_lt hn⟩
      rw [normalizeBytes, if_neg hn, hbytes, List.nil_append]

/-- At a session's start ENC holds back the number 0, so that the bytes DEC reads first are a legal header (R181): `code` is below
ENC's range 0xFFFFFFFF, which leaves 0x00 for the leading byte. -/
theorem Codes.header {e : EncUnit} {code : Nat} {seen : List Byte} (h : Codes e code seen) (hrange : e.range = 0xFFFFFFFF#32)
    (hsize : e.cacheSize = 1) (hheld : heldNumber e = 0) :
    ∃ bs, seen = 0x00#8 :: bs ∧ bs.length = 4 ∧ bigEndianValue bs = code ∧ code < 0xFFFFFFFF := by
  obtain ⟨hlen, hvalue, hlt⟩ := h
  rw [hsize] at hlen
  rw [hheld] at hvalue
  replace hlt : code < 0xFFFFFFFF := hlt.trans_eq (congrArg BitVec.toNat hrange)
  obtain ⟨b, bs, rfl⟩ := List.exists_cons_of_length_eq_add_one hlen
  have hbs : bs.length = 4 := Nat.succ.inj hlen
  rw [bigEndianValue_cons, hbs] at hvalue
  have hb : b.toNat = 0 := by omega
  rw [hb] at hvalue
  exact ⟨bs, by rw [BitVec.eq_of_toNat_eq (y := 0x00#8) hb], hbs, by omega, hlt⟩

/-- DEC.INIT at a session's start brings DEC in step with ENC (R181, R185). -/
theorem exec_decInit_inStep {s d : State} {code : Nat} {seen todo : List Byte} {rest : List SourceAnswer} (hs : AtEncStart s)
    (h : Codes s.enc code seen) (ha : d.source.answers = (seen ++ todo).map .byte ++ rest) :
    exec .decInit d = .next (afterAnswer d (decInStep s.enc code) seen.length (todo.map .byte ++ rest) 0x0000#16) := by
  have hrange : s.enc.range = 0xFFFFFFFF#32 := congrArg EncUnit.range hs
  obtain ⟨bs, rfl, hbs, rfl, hlt⟩ := h.header hrange (congrArg EncUnit.cacheSize hs) (congrArg heldNumber hs)
  rw [List.map_append, List.append_assoc] at ha
  rw [decInitReadsTheHeader d bs (todo.map .byte ++ rest) hbs hlt.ne ha, decInStep, hrange, List.length_cons, hbs]
  rfl

/-- Settles O43: DEC.INIT brings DEC in step, and it stays so through the session's commands. -/
theorem decoderMirrorsEncoder : Obligations.DecoderMirrorsEncoder := by
  intro cs s d rest hs hok hwide ha
  have run := sessionRun_of_allOk hok
  have hb : EncBounds s.enc := hs ▸ encBounds_sessionStart s
  have hw : WideForCells cs s.enc := fun k b p hk => run.enc_prefix k ▸ hwide k b p hk
  obtain ⟨code, seen, todo, hbytes, hcodes, hfollow⟩ := exists_codes_followedFrom hb (by rw [hs]; decide) run.legal hw
  have hsince : bytesSince s (encSession cs s) = seen ++ todo := by rw [bytesSince, run.written, List.drop_left, hbytes]
  rw [hsince] at ha ⊢
  obtain ⟨hresp, hsource, hrange⟩ := hfollow.run_cons (exec_decInit_inStep hs hcodes ha)
  have htake : cs.take cs.length = cs := List.take_length
  refine ⟨responsesSince_append run.responses, ?_, ?_, fun k _ => ?_⟩
  · rw [decPrefix, htake]
    exact responsesSince_append hresp
  · rw [decPrefix, htake, List.length_append]
    exact hsource
  · rw [run.enc_prefix]
    exact hrange k

end Sys2Proof.Machine
end

section
/-! PROOFS. What a command's STATUS says (60_exceptions.md R231, R232, R237, R238): `EndsFatally` says once how a fatal status comes
about, and only DEC.INIT raises ERR_MALFORMED: O36, O37. -/

namespace Sys2Proof.Machine

/-! ### The STATUS of the response delivered -/

theorem status_of_responses {rs rs' : List ResponseWord} {r : ResponseWord} {st : Status} {bit : Bool} {p : Prob}
    (h : rs' = rs ++ [responseWord st bit p]) (hr : rs' = rs ++ [r]) : r.toNat % 8 = statusCode st := by
  obtain rfl : r = responseWord st bit p := List.singleton_inj.1 (List.append_cancel_left (hr.symm.trans h))
  exact responseWord_status st bit p

/-- The STATUS tells whether a command's work went through, and which fatal status it raised if not. -/
theorem commandEnd_status {s : State} {x : Flow (Bool × Prob)} {u : CoderUnit} {q : Prob} {r : ResponseWord}
    (hx : x.state.responses = s.responses) (hr : (commandEnd u q x).responses = s.responses ++ [r]) :
    (∃ a t, x = .go a t ∧ r.toNat % 8 = 0) ∨ (∃ f t, x = .raise f t ∧ r.toNat % 8 = statusCode (fatalStatus f)) := by
  have hc := commandEnd_responses u q x
  rw [hx] at hc
  cases x with
  | go a t => exact .inl ⟨a, t, rfl, status_of_responses hc hr⟩
  | raise f t => exact .inr ⟨f, t, rfl, status_of_responses hc hr⟩

/-! ### Work that never finds a malformed header -/

/-- The work, however it ends, does not end with ERR_MALFORMED. -/
def NeverMalformed {α : Type} (x : Flow α) : Prop := ∀ t, x ≠ .raise .malformed t

theorem neverMalformed_go {α : Type} (a : α) (s : State) : NeverMalformed (.go a s) := nofun

theorem NeverMalformed.andThen {α β : Type} {x : Flow α} {k : α → State → Flow β} (h : NeverMalformed x)
    (hk : ∀ a t, NeverMalformed (k a t)) : NeverMalformed (andThen x k) := by
  cases x with
  | go a t => exact hk a t
  | raise f t =>
    rintro u ⟨⟩
    exact h _ rfl

theorem writeHeldBytes_neverMalformed (s : State) : NeverMalformed (writeHeldBytes s) := by
  obtain ⟨t, e, -⟩ | ⟨t, e, -⟩ := writeHeldBytes_cases s <;> rw [e] <;> nofun

theorem countAndShift_neverMalformed (s : State) : NeverMalformed (countAndShift s) := by
  obtain ⟨-, e⟩ | ⟨-, e⟩ := countAndShift_cases s <;> rw [e] <;> nofun

theorem shiftLow_neverMalformed (s : State) : NeverMalformed (shiftLow s) := by
  unfold shiftLow
  split
  · split
    · nofun
    · exact (writeHeldBytes_neverMalformed s).andThen fun _ t => countAndShift_neverMalformed (holdBackNext t)
  · exact countAndShift_neverMalformed s

theorem shiftLowRepeat_neverMalformed (n : Nat) (s : State) : NeverMalformed (shiftLowRepeat n s) := by
  induction n generalizing s with
  | zero => exact neverMalformed_go () s
  | succ n ih => exact (shiftLow_neverMalformed s).andThen fun _ t => ih t

theorem encNormalize_neverMalformed (s : State) : NeverMalformed (encNormalize s) := by
  obtain ⟨-, e⟩ | ⟨-, e⟩ := encNormalize_cases s <;> rw [e]
  · exact neverMalformed_go () s
  · exact shiftLow_neverMalformed _

theorem sinkFlush_neverMalformed (s : State) : NeverMalformed (sinkFlush s) := by
  obtain ⟨-, e⟩ | ⟨-, e⟩ := sinkFlush_cases s <;> rw [e] <;> nofun

theorem sourceRead_neverMalformed (s : State) : NeverMalformed (sourceRead s) := by
  obtain ⟨v, -, e⟩ | ⟨-, e⟩ | ⟨-, e⟩ := sourceRead_cases s <;> rw [e] <;> nofun

theorem decNormalize_neverMalformed (s : State) : NeverMalformed (decNormalize s) := by
  unfold decNormalize
  split
  · exact (sourceRead_neverMalformed _).andThen fun v t => neverMalformed_go () (foldByte v t)
  · exact neverMalformed_go () s

theorem encWork_neverMalformed (c : CodedBit) (s : State) : NeverMalformed (c.encWork s) :=
  (encNormalize_neverMalformed _).andThen fun _ t => neverMalformed_go _ t

theorem flushWork_neverMalformed (s : State) : NeverMalformed (flushWork s) :=
  (shiftLowRepeat_neverMalformed _ s).andThen fun _ t => (sinkFlush_neverMalformed t).andThen fun _ _ => neverMalformed_go _ _

theorem decWork_neverMalformed (c : CodedBit) (s : State) : NeverMalformed (c.decWork s) :=
  (decNormalize_neverMalformed _).andThen fun _ t => neverMalformed_go _ t

/-! ### Fatal statuses -/

/-- How the command `i` ends with the fatal status `f`: its unit's phase accepted it, and the unit is FAILED now (R237); only DEC.INIT
finds a header malformed (R235). -/
inductive EndsFatally (s : State) (i : Instr) (t : State) (f : Fatal) : Prop where
  | enc (hi : IsEncCommand i) (hp : s.enc.phase = .ready) (he : t.enc.phase = .failed) (hf : f ≠ .malformed)
  | dec (hi : IsDecCommand i) (ha : AcceptedIn i s) (hd : t.dec.phase = .failed) (hf : f = .malformed → i = .decInit)

theorem EndsFatally.of_encWork {s t : State} {i : Instr} {f : Fatal} {x : Flow (Bool × Prob)} (hi : IsEncCommand i)
    (hp : s.enc.phase = .ready) (hm : NeverMalformed x) (hx : x = .raise f t) (q : Prob) :
    EndsFatally s i (commandEnd .enc q x) f := by
  subst hx
  exact .enc hi hp rfl fun hf => hm t (hf ▸ rfl)

/-- Everything a command answered with a fatal status can have done. -/
theorem CommandRun.endsFatally {i : Instr} {s t : State} {r : ResponseWord} (h : CommandRun s i t)
    (hr : t.responses = s.responses ++ [r]) (h3 : 3 ≤ r.toNat % 8) :
    ∃ f, r.toNat % 8 = statusCode (fatalStatus f) ∧ EndsFatally s i t f := by
  cases h with
  | illegal _ | outOfPhase _ _ | pInc _ | pDec _ | encInit | decAtend _ =>
    exact absurd (status_of_responses rfl hr ▸ h3) (by decide)
  | encBit c _ hp =>
    obtain ⟨_, _, -, h0⟩ | ⟨f, u, hx, hf⟩ := commandEnd_status (responses_of_encInto (encWork_encInto c) s) hr
    · omega
    · exact ⟨f, hf, .of_encWork (isEncCommand_encCommand c) hp (encWork_neverMalformed c s) hx _⟩
  | encFlush hp =>
    obtain ⟨_, _, -, h0⟩ | ⟨f, u, hx, hf⟩ := commandEnd_status (responses_of_encInto flushWork_encInto s) hr
    · omega
    · exact ⟨f, hf, .of_encWork trivial hp (flushWork_neverMalformed s) hx _⟩
  | decInit =>
    obtain ⟨_, _, -, h0⟩ | ⟨f, u, hx, hf⟩ := commandEnd_status (responses_of_decInto decInitWork_decInto s) hr
    · omega
    · exact ⟨f, hf, .dec trivial trivial (by rw [hx]; rfl) fun _ => rfl⟩
  | decBit c _ hp =>
    obtain ⟨_, _, -, h0⟩ | ⟨f, u, hx, hf⟩ := commandEnd_status (responses_of_decInto (decWork_decInto c) s) hr
    · omega
    · have ha : AcceptedIn c.decCommand s := by cases c <;> exact hp
      refine ⟨f, hf, .dec (isDecCommand_decCommand c) ha (by rw [hx]; rfl) fun hm => ?_⟩
      exact absurd (hm ▸ hx) (decWork_neverMalformed c s u)

/-! ### Refusals -/

/-- A legal command that its unit's phase accepts is neither ERR_ILLEGAL nor ERR_SEQ. -/
theorem CommandRun.status_of_accepted {i : Instr} {s t : State} {r : ResponseWord} (h : CommandRun s i t) (hw : i.wf = true)
    (ha : AcceptedIn i s) (hr : t.responses = s.responses ++ [r]) : r.toNat % 8 ≠ 1 ∧ r.toNat % 8 ≠ 2 := by
  obtain ⟨b, q, st, bit, p, -, hans, hs⟩ := h.answersOnce
  rw [status_of_responses hs hr]
  cases hans with
  | illegal hf => exact absurd (hw.symm.trans hf) nofun
  | outOfPhase hn => exact absurd ha hn
  | ok => decide
  | fatal f => exact (statusCode_fatalStatus_ne f).2

/-- R231, R232: a refused command changes nothing but the responses. -/
theorem CommandRun.eq_of_refused {i : Instr} {s t : State} {r : ResponseWord} (h : CommandRun s i t)
    (hr : t.responses = s.responses ++ [r]) (hst : r.toNat % 8 = 1 ∨ r.toNat % 8 = 2) : t = { s with responses := t.responses } := by
  by_cases hw : i.wf = true
  · by_cases ha : AcceptedIn i s
    · exact absurd hst (not_or.2 (h.status_of_accepted hw ha hr))
    · obtain rfl := h.unique (.outOfPhase hw ha)
      rfl
  · obtain rfl := h.unique (.illegal (Bool.eq_false_of_not_eq_true hw))
    rfl

/-- Settles O36: the refusal comes before the command's work, and no work is answered ERR_SEQ. -/
theorem phaseDecidesErrSeq : Obligations.PhaseDecidesErrSeq := by
  refine fun i s hw => ⟨exec_of_not_accepted hw, fun ha => ?_⟩
  obtain ⟨t, h⟩ := exists_commandRun i s
  obtain ⟨_, _, _, _, _, -, -, hr⟩ := h.answersOnce
  exact ⟨t, _, h.exec_eq, hr, (h.status_of_accepted hw ha hr).2⟩

/-! ### OK -/

/-- A command answered OK makes no unit FAILED: a unit's phase changes to FAILED only with a fatal status (R25, R28). -/
theorem CommandRun.not_failed_of_ok {i : Instr} {s t : State} {r : ResponseWord} (h : CommandRun s i t)
    (hr : t.responses = s.responses ++ [r]) (hok : r.toNat % 8 = 0) :
    (t.enc.phase = .failed → s.enc.phase = .failed) ∧ (t.dec.phase = .failed → s.dec.phase = .failed) := by
  have same : ∀ r', t.responses = s.responses ++ [r'] → r' = r := fun r' hr' =>
    List.singleton_inj.1 (List.append_cancel_left (hr'.symm.trans hr))
  refine ⟨fun hf => ?_, fun hf => ?_⟩
  · by_contra hn
    obtain ⟨r', hr', ⟨-, hp, -⟩ | ⟨-, -, hp, -⟩ | ⟨-, -, -, h3⟩⟩ :=
      h.encEffect.phase_change fun he => hn (he.symm.trans hf)
    · cases hp.symm.trans hf
    · cases hp.symm.trans hf
    · rw [same r' hr'] at h3
      omega
  · by_contra hn
    obtain ⟨r', hr', ⟨-, hp, -⟩ | ⟨-, -, h3⟩ | ⟨-, -, -, h3⟩⟩ :=
      h.decEffect.phase_change fun hd => hn (hd.symm.trans hf)
    · cases hp.symm.trans hf
    · rw [same r' hr'] at h3
      omega
    · rw [same r' hr'] at h3
      omega

/-- Settles O37: a refusal keeps the state, a fatal status comes from the command's unit alone, and OK fails none. -/
theorem statusSaysWhatBecameOfTheUnit : Obligations.StatusSaysWhatBecameOfTheUnit := by
  intro i s t r hx hr
  have h := exec_eq_next_iff.1 hx
  obtain ⟨hencFrame, hdecFrame, -⟩ := commandsLeaveTheOtherUnitAlone i s t hx
  refine ⟨h.eq_of_refused hr, fun h3 => ?_, h.not_failed_of_ok hr⟩
  obtain ⟨f, -, he⟩ := h.endsFatally hr h3
  cases he with
  | enc hi hp he _ =>
    obtain ⟨hdec, hsource, -⟩ := hencFrame hi
    exact .inl ⟨hi, hp, he, hdec, hsource⟩
  | dec hi ha hd _ =>
    obtain ⟨henc, hsink, -⟩ := hdecFrame hi
    exact .inr ⟨hi, ha, hd, henc, hsink⟩

end Sys2Proof.Machine
end

section
/-! PROOFS. How DEC's commands fail (42_decoder.md R181 to R183; 60_exceptions.md R233 to R235, R237): a source that has no byte where
one is read, and a malformed header; these and the legal headers are all a DEC.INIT can meet: O30, O34. -/

namespace Sys2Proof.Machine

/-! ### A source that gives no byte -/

/-- With these answers to come, the next read raises `f` (R53; log 1 for the exhausted list). -/
inductive ReadFails : Fatal → List SourceAnswer → Prop where
  | exhausted : ReadFails .eod []
  | eod (rest : List SourceAnswer) : ReadFails .eod (.eod :: rest)
  | err (rest : List SourceAnswer) : ReadFails .io (.err :: rest)

theorem ReadFails.status_ne_five {f : Fatal} {as : List SourceAnswer} (h : ReadFails f as) : statusCode (fatalStatus f) ≠ 5 := by
  cases h <;> decide

/-- The two failing answers, and the STATUS each ends the command with (R233, R234). -/
theorem exists_readFails {a : SourceAnswer} {status : Nat} (h : (a, status) ∈ [(SourceAnswer.eod, 4), (SourceAnswer.err, 3)])
    (rest : List SourceAnswer) : ∃ f, ReadFails f (a :: rest) ∧ statusCode (fatalStatus f) = status := by
  obtain h | h := List.mem_pair.1 h <;> cases h
  · exact ⟨.eod, .eod rest, rfl⟩
  · exact ⟨.io, .err rest, rfl⟩

theorem sourceRead_fails {s : State} {f : Fatal} {as : List SourceAnswer} (h : ReadFails f as) (ha : s.source.answers = as) :
    sourceRead s = .raise f (afterReads s s.dec 0 as.tail) := by
  rw [sourceRead, takeSourceAnswer_eq, ha]
  cases h <;> rfl

/-- The next `n` reads all give a byte, or one of them fails. -/
theorem bytes_or_readFails (n : Nat) (as : List SourceAnswer) :
    (∃ (bs : List Byte) (rest : List SourceAnswer), bs.length = n ∧ as = bs.map .byte ++ rest) ∨
    (∃ (vs : List Byte) (rest : List SourceAnswer) (f : Fatal), vs.length < n ∧ ReadFails f rest ∧ as = vs.map .byte ++ rest) := by
  induction n generalizing as with
  | zero => exact .inl ⟨[], as, rfl, rfl⟩
  | succ n ih =>
    match as with
    | [] => exact .inr ⟨[], _, _, n.succ_pos, .exhausted, rfl⟩
    | .eod :: rest => exact .inr ⟨[], _, _, n.succ_pos, .eod rest, rfl⟩
    | .err :: rest => exact .inr ⟨[], _, _, n.succ_pos, .err rest, rfl⟩
    | .byte v :: as =>
      obtain ⟨bs, rest, hlen, rfl⟩ | ⟨vs, rest, f, hlen, hf, rfl⟩ := ih as
      · exact .inl ⟨v :: bs, rest, congrArg _ hlen, rfl⟩
      · exact .inr ⟨v :: vs, rest, f, Nat.succ_lt_succ hlen, hf, rfl⟩

/-! ### A command that leaves DEC FAILED -/

/-- The command ends with DEC FAILED, the response `r` and the source at `k`, and nothing else of the machine changed (R237). -/
def LeavesDecFailed (i : Instr) (s : State) (r : ResponseWord) (k : SourcePort) : Prop :=
  ∃ t, exec i s = .next t ∧ t.dec.phase = .failed ∧ t.responses = s.responses ++ [r] ∧ t.source = k ∧
    t.enc = s.enc ∧ t.sink = s.sink ∧ t.moves = s.moves ∧ t.config = s.config

theorem leavesDecFailed_of_takeFatal {i : Instr} {s : State} {f : Fatal} {q : Prob} {d : DecUnit} {n : Nat}
    {rest : List SourceAnswer} (h : exec i s = .next (takeFatal .dec f q (afterReads s d n rest))) :
    LeavesDecFailed i s (response (statusCode (fatalStatus f)) 0 q.toNat) { taken := s.source.taken + n, answers := rest } :=
  ⟨_, h, rfl, rfl, rfl, rfl, rfl, rfl, rfl⟩

theorem leavesDecFailed_decInit {s : State} {f : Fatal} {d : DecUnit} {n : Nat} {rest : List SourceAnswer}
    (h : decInitWork s = .raise f (afterReads s d n rest)) :
    LeavesDecFailed .decInit s (response (statusCode (fatalStatus f)) 0 0) { taken := s.source.taken + n, answers := rest } :=
  leavesDecFailed_of_takeFatal (q := 0#11) (by rw [exec_decInit, h, commandEnd_raise])

/-- R180: what DEC holds then is overwritten when it fails. -/
theorem decNormalize_fails {s : State} {f : Fatal} {as : List SourceAnswer} (hn : NeedsShift s.dec.range) (hf : ReadFails f as)
    (ha : s.source.answers = as) : ∃ d, decNormalize s = .raise f (afterReads s d 0 as.tail) := by
  have hread := sourceRead_fails (s := s.setDec { s.dec with range := s.dec.range <<< 8 }) hf ha
  exact ⟨_, (decNormalize_of_shift hn).trans (by rw [hread, andThen_raise]; rfl)⟩

/-- R182, R183: a bit whose normalization reads no byte; the response holds the updated P (R76). -/
theorem leavesDecFailed_decCommand {c : CodedBit} {s : State} {f : Fatal} {as : List SourceAnswer} (hl : c.Legal)
    (hr : s.dec.phase = .ready) (hn : NeedsShift (c.decoded s.dec).2.range) (hf : ReadFails f as) (ha : s.source.answers = as) :
    LeavesDecFailed c.decCommand s (response (statusCode (fatalStatus f)) 0 (c.decodedP (c.decoded s.dec).1).toNat)
      { s.source with answers := as.tail } := by
  obtain ⟨d, hd⟩ := decNormalize_fails (s := s.setDec (c.decoded s.dec).2) hn hf ha
  have hx : c.decWork s = .raise f (afterReads s d 0 as.tail) := by rw [CodedBit.decWork, hd, andThen_raise]; rfl
  exact leavesDecFailed_of_takeFatal (by rw [exec_decCommand hl hr, hx, commandEnd_raise])

/-! ### The header -/

theorem readCodeBytes_fails {vs : List Byte} {n : Nat} {s : State} {f : Fatal} {rest : List SourceAnswer} (hn : vs.length < n)
    (hf : ReadFails f rest) (ha : s.source.answers = vs.map .byte ++ rest) :
    ∃ d, readCodeBytes n s = .raise f (afterReads s d vs.length rest.tail) := by
  induction vs generalizing n s with
  | nil =>
    obtain ⟨n, rfl⟩ := Nat.exists_eq_add_one_of_ne_zero (Nat.ne_zero_of_lt hn)
    exact ⟨s.dec, by rw [readCodeBytes, sourceRead_fails hf ha, andThen_raise]; rfl⟩
  | cons v vs ih =>
    obtain ⟨n, rfl⟩ := Nat.exists_eq_add_one_of_ne_zero (Nat.ne_zero_of_lt hn)
    obtain ⟨d, hd⟩ := ih (s := foldByte v (afterReads s s.dec 1 (vs.map .byte ++ rest))) (Nat.lt_of_succ_lt_succ hn) rfl
    have hread := sourceRead_byte (rest := vs.map SourceAnswer.byte ++ rest) ha
    refine ⟨d, ?_⟩
    rw [readCodeBytes, hread, andThen_go, hd, List.length_cons, Nat.add_comm vs.length]
    simp only [afterReads, foldByte, setDec_source, Nat.add_assoc]
    rfl

/-- R181: a read that fails anywhere in a header that began with 0x00, or at its first byte. -/
theorem decInitWork_fails {vs : List Byte} {s : State} {f : Fatal} {rest : List SourceAnswer} (hn : vs.length < 5)
    (hz : ∀ v ∈ vs.head?, v = 0x00#8) (hf : ReadFails f rest) (ha : s.source.answers = vs.map .byte ++ rest) :
    ∃ d, decInitWork s = .raise f (afterReads s d vs.length rest.tail) := by
  cases vs with
  | nil =>
    refine ⟨(decSessionStart s).dec, ?_⟩
    rw [decInitWork, readLeadingZero, sourceRead_fails (s := decSessionStart s) hf ha]
    rfl
  | cons v vs =>
    obtain rfl : v = 0x00#8 := hz v rfl
    have hlead := readLeadingZero_of_zero (s := decSessionStart s) (rest := vs.map SourceAnswer.byte ++ rest) ha
    obtain ⟨d, hd⟩ := readCodeBytes_fails (Nat.lt_of_succ_lt_succ hn) hf
      (s := afterReads (decSessionStart s) (decSessionStart s).dec 1 (vs.map .byte ++ rest)) rfl
    refine ⟨d, ?_⟩
    rw [decInitWork, hlead, andThen_go, hd, List.length_cons, Nat.add_comm vs.length]
    simp only [afterReads, Nat.add_assoc]
    rfl

/-- R235: the first byte is not 0x00, and nothing is read after it. -/
theorem decInitWork_of_leading {s : State} {v : Byte} {rest : List SourceAnswer} (hv : v ≠ 0x00#8)
    (ha : s.source.answers = .byte v :: rest) :
    decInitWork s = .raise .malformed (afterReads s (decSessionStart s).dec 1 rest) := by
  rw [decInitWork, readLeadingZero, sourceRead_byte (s := decSessionStart s) ha, andThen_go, if_neg hv]
  rfl

/-- R235: the code is not below 0xFFFFFFFF. -/
theorem decInitWork_of_code {s : State} {bs : List Byte} {rest : List SourceAnswer} (hlen : bs.length = 4)
    (hv : bigEndianValue bs = 0xFFFFFFFF) (ha : s.source.answers = (0x00#8 :: bs).map .byte ++ rest) :
    ∃ d, decInitWork s = .raise .malformed (afterReads s d 5 rest) := by
  have hlead := readLeadingZero_of_zero (s := decSessionStart s) (rest := bs.map SourceAnswer.byte ++ rest) ha
  have hcode := readCodeBytes_of_bytes bs (s := afterReads (decSessionStart s) (decSessionStart s).dec 1 (bs.map .byte ++ rest))
    (n := 0) rfl rfl
  rw [Nat.zero_mul, Nat.zero_add, hlen, hv] at hcode
  refine ⟨{ range := Config.rangeInit, code := 0xFFFFFFFF#32, phase := s.dec.phase }, ?_⟩
  rw [decInitWork, hlead, andThen_go, hcode, andThen_go]
  rfl

/-- Only 0xFF bytes have the largest value of their length. -/
theorem eq_replicate_of_bigEndianValue {bs : List Byte} (h : bigEndianValue bs + 1 = 256 ^ bs.length) :
    bs = List.replicate bs.length 0xFF#8 := by
  induction bs with
  | nil => rfl
  | cons b bs ih =>
    have hb := b.isLt
    have hlt := bigEndianValue_lt bs
    rw [bigEndianValue_cons, List.length_cons, Nat.pow_succ'] at h
    have hff : b.toNat = 255 := by nlinarith
    rw [hff] at h
    rw [List.length_cons, List.replicate_succ, ← ih (by omega), BitVec.eq_of_toNat_eq (y := 0xFF#8) hff]

/-- Everything the source can hold for DEC.INIT: a non-zero first byte, a code of 0xFFFFFFFF, a legal header (R181), or a read that
fails before the header is complete. -/
theorem header_cases (as : List SourceAnswer) :
    (∃ v rest, v ≠ 0x00#8 ∧ as = .byte v :: rest) ∨
    (∃ rest, as = [0x00#8, 0xFF#8, 0xFF#8, 0xFF#8, 0xFF#8].map .byte ++ rest) ∨
    (∃ (bs : List Byte) (rest : List SourceAnswer), bs.length = 4 ∧ bigEndianValue bs ≠ 0xFFFFFFFF ∧ as = (0x00#8 :: bs).map .byte ++ rest) ∨
    (∃ (vs : List Byte) (rest : List SourceAnswer) (f : Fatal), vs.length < 5 ∧ (∀ v ∈ vs.head?, v = 0x00#8) ∧
      ReadFails f rest ∧ as = vs.map .byte ++ rest) := by
  by_cases hlead : ∃ v rest, v ≠ 0x00#8 ∧ as = .byte v :: rest
  · exact .inl hlead
  have hzero : ∀ v rest, as = .byte v :: rest → v = 0x00#8 := fun v rest ha => by_contra fun hv => hlead ⟨v, rest, hv, ha⟩
  obtain ⟨_ | ⟨v, bs⟩, rest, hlen, ha⟩ | ⟨vs, rest, f, hlen, hf, ha⟩ := bytes_or_readFails 5 as
  · cases hlen
  · obtain rfl := hzero v _ ha
    have hbs : bs.length = 4 := Nat.succ.inj hlen
    by_cases hv : bigEndianValue bs = 0xFFFFFFFF
    · have hff := eq_replicate_of_bigEndianValue (bs := bs) (by rw [hv, hbs]; rfl)
      rw [hff, hbs] at ha
      exact .inr (.inl ⟨rest, ha⟩)
    · exact .inr (.inr (.inl ⟨bs, rest, hbs, hv, ha⟩))
  · refine .inr (.inr (.inr ⟨vs, rest, f, hlen, ?_, hf, ha⟩))
    cases vs with
    | nil => nofun
    | cons v vs =>
      rintro w ⟨⟩
      exact hzero v _ ha

/-- R235: ERR_MALFORMED is answered for the two malformed headers only; a legal header is answered OK, and a failing read otherwise. -/
theorem malformed_header_of_status {s t : State} {r : ResponseWord} (hx : exec .decInit s = .next t)
    (hr : t.responses = s.responses ++ [r]) (h5 : r.toNat % 8 = 5) :
    (∃ v rest, v ≠ 0x00#8 ∧ s.source.answers = .byte v :: rest) ∨
    (∃ rest, s.source.answers = [0x00#8, 0xFF#8, 0xFF#8, 0xFF#8, 0xFF#8].map .byte ++ rest) := by
  obtain h | h | ⟨bs, rest, hlen, hv, ha⟩ | ⟨vs, rest, f, hlen, hz, hf, ha⟩ := header_cases s.source.answers
  · exact .inl h
  · exact .inr h
  · cases hx.symm.trans (decInitReadsTheHeader s bs rest hlen hv ha)
    exact absurd ((status_of_responses (st := .ok) (bit := false) (p := 0#11) rfl hr).symm.trans h5) (by decide)
  · obtain ⟨d, hd⟩ := decInitWork_fails hlen hz hf ha
    rw [exec_decInit, hd, commandEnd_raise] at hx
    cases hx
    exact absurd ((status_of_responses (takeFatal_responses ..) hr).symm.trans h5) hf.status_ne_five

/-- Settles O30: each malformed header raises, no other header does, and DEC.INIT is the only command that checks one. -/
theorem malformedHeaderIsRefused : Obligations.MalformedHeaderIsRefused := by
  refine ⟨fun s v rest hv ha => leavesDecFailed_decInit (decInitWork_of_leading hv ha), fun s rest ha => ?_,
    fun s t r => malformed_header_of_status, fun i s t r hi hx hr h5 => ?_⟩
  · obtain ⟨d, hd⟩ := decInitWork_of_code (bs := [0xFF#8, 0xFF#8, 0xFF#8, 0xFF#8]) rfl rfl ha
    exact leavesDecFailed_decInit hd
  · obtain ⟨f, hf, he⟩ := (exec_eq_next_iff.1 hx).endsFatally hr (by omega)
    have hm : f = .malformed := by
      cases f with
      | malformed => rfl
      | io | eod | invariant => exact absurd (hf.symm.trans h5) (by decide)
    cases he with
    | enc _ _ _ hne => exact hne hm
    | dec _ _ _ hinit => exact hi (hinit hm)

/-- Settles O34: the read that fails is DEC.INIT's own or a normalization's. -/
theorem sourceFailureEndsTheCommand : Obligations.SourceFailureEndsTheCommand := by
  intro s a status rest h
  obtain ⟨f, hf, rfl⟩ := exists_readFails h rest
  refine ⟨fun vs hlen hz ha => ?_, fun hr hn ha => ?_, fun p hp hr hn ha => ?_⟩
  · obtain ⟨d, hd⟩ := decInitWork_fails hlen hz hf ha
    exact leavesDecFailed_decInit hd
  · exact leavesDecFailed_decCommand (c := .direct false) trivial hr hn hf ha
  · rw [← toNat_cellUpdate]
    exact leavesDecFailed_decCommand (c := .adaptive false p) hp hr hn hf ha

end Sys2Proof.Machine
end

section
/-! PROOFS. Reset() asserted by the host (70_reset_and_hazards.md R270, R271): O7. -/

namespace Sys2Proof.Machine

/-- R38, R271: reset writes the registers of both units over whatever they held, and nothing else of the state. -/
theorem hardwareReset_eq (s : State) :
    hardwareReset s =
      { s with
        enc := { range := 0xFFFFFFFF#32, low := 0#33, cache := 0x00#8, cacheSize := 1, phase := .ready }
        dec := { range := 0xFFFFFFFF#32, code := 0#32, phase := .uninit } } := rfl

/-- Settles O7: the step takes the move, then resets the state it leaves. -/
theorem hostResetSetsEveryRegister : Obligations.HostResetSetsEveryRegister :=
  fun s rest hm => (step_of_reset hm).trans (congrArg Host.Outcome.next (hardwareReset_eq (s.setMoves rest)))

end Sys2Proof.Machine
end
